-- ==== Sys2Proof/Word.lean ====
section
/-!
DEFINITION. The value formats of the block (R5, R50): nibble, code word, byte, and the two whole-group values
`G32` (R52) and `Q40` (R53). Every value is unsigned and bit 0 is the least significant bit (R6).
-/

namespace Sys2Proof

/-- R50: a nibble is a 4-bit value. -/
abbrev Nibble := BitVec 4

/-- R50: a code word is a 5-bit value; 16 of the 32 are valid (R61). -/
abbrev CodeWord := BitVec 5

/-- R31, R50: a byte is 8 bits, the unit of addressing of IN and OUT. -/
abbrev Byte := BitVec 8

/-- R52: a decoded group, 4 bytes in buffer order, the first byte most significant. -/
abbrev G32 := BitVec 32

/-- R53, R55: an encoded group, 8 code words, the first one most significant; exactly 40 bits wide. -/
abbrev Q40 := BitVec 40

end Sys2Proof
end

