-- ==== Sys2Proof/Config.lean ====
section
/-!
DEFINITION. What the spec leaves open. On the unit result ports (U6, U14): after a command begins, every unit result
port holds an unspecified value until that command writes it (log entry 8). In the group counter: what it holds after a
DECODE that failed, since no claim may depend on which group failed (R161; log entry 25). Each is a free value: a constant
with no body, so that nothing can be proved of it, applied to a counter of the state (`State.freeIndex`).

The code table is fixed and has one content (R13, R73); it is not a parameter and stands in Machine/CodeTable.lean.
`LEN_W` is taken as unbounded (D9, C8; log entry 16).
-/

namespace Sys2Proof.Config

/-- U14: what `enc_data` holds while it is no result. DEDUCED (log 8), safe: unconstrained. -/
opaque freeEncData : Nat → CodeWord

/-- U14: what `dec_valid` holds while it is no result. DEDUCED (log 8), safe: unconstrained. -/
opaque freeDecValid : Nat → Bool

/-- U6, U14: what `dec_data` holds while it is no result. DEDUCED (log 8), safe: unconstrained. -/
opaque freeDecData : Nat → Nibble

/-- U14: what `eu_out` holds while it is no result. DEDUCED (log 8), safe: unconstrained. -/
opaque freeEuOut : Nat → Q40

/-- U14: what `du_ok` holds while it is no result. DEDUCED (log 8), safe: unconstrained. -/
opaque freeDuOk : Nat → Bool

/-- U6, U14: what `du_out` holds while it is no result. DEDUCED (log 8), safe: unconstrained. -/
opaque freeDuOut : Nat → G32

/-- R161, D7, U4: what the group counter `g` holds after a DECODE that failed. DESIGN CHOICE (log 25), safe: unconstrained. -/
opaque freeGroup : Nat → Nat

end Sys2Proof.Config
end

