-- ==== Sys2Proof/Machine/CodeTable.lean ====
section
/-!
DEFINITION. The code_table ROM (R10 to R13, R73 to R122): the encode table, the decode table and the construction they
come from (R70). The tables are constants, not state: they hold the same contents at every time after reset is released
and nothing writes them (R13, D5; log 1).
-/

namespace Sys2Proof.Machine

/-- R73: the mapping-pair list, the one constant of the design, in nibble order. -/
def codeWords : List CodeWord :=
  [0b01010#5, 0b01011#5, 0b10010#5, 0b10011#5, 0b01110#5, 0b01111#5, 0b10110#5, 0b10111#5,
   0b01001#5, 0b11001#5, 0b11010#5, 0b11011#5, 0b01101#5, 0b11101#5, 0b11110#5, 0b10101#5]

/-- `ENC_ROM[n]` (R10), entry by entry. -/
def encRom (n : Nibble) : CodeWord :=
  match n.toNat with
  | 0x0 => 0b01010#5 -- R75
  | 0x1 => 0b01011#5 -- R76
  | 0x2 => 0b10010#5 -- R77
  | 0x3 => 0b10011#5 -- R78
  | 0x4 => 0b01110#5 -- R79
  | 0x5 => 0b01111#5 -- R80
  | 0x6 => 0b10110#5 -- R81
  | 0x7 => 0b10111#5 -- R82
  | 0x8 => 0b01001#5 -- R83
  | 0x9 => 0b11001#5 -- R84
  | 0xA => 0b11010#5 -- R85
  | 0xB => 0b11011#5 -- R86
  | 0xC => 0b01101#5 -- R87
  | 0xD => 0b11101#5 -- R88
  | 0xE => 0b11110#5 -- R89
  | _ => 0b10101#5 -- R90

/-- `DEC_ROM[v]` (R11), entry by entry: `some n` is the spec's `Nib(n)`, `none` is `INVALID`. -/
def decRom (v : CodeWord) : Option Nibble :=
  match v.toNat with
  | 0b00000 => none -- R91
  | 0b00001 => none -- R92
  | 0b00010 => none -- R93
  | 0b00011 => none -- R94
  | 0b00100 => none -- R95
  | 0b00101 => none -- R96
  | 0b00110 => none -- R97
  | 0b00111 => none -- R98
  | 0b01000 => none -- R99
  | 0b01001 => some 0x8#4 -- R100
  | 0b01010 => some 0x0#4 -- R101
  | 0b01011 => some 0x1#4 -- R102
  | 0b01100 => none -- R103
  | 0b01101 => some 0xC#4 -- R104
  | 0b01110 => some 0x4#4 -- R105
  | 0b01111 => some 0x5#4 -- R106
  | 0b10000 => none -- R107
  | 0b10001 => none -- R108
  | 0b10010 => some 0x2#4 -- R109
  | 0b10011 => some 0x3#4 -- R110
  | 0b10100 => none -- R111
  | 0b10101 => some 0xF#4 -- R112
  | 0b10110 => some 0x6#4 -- R113
  | 0b10111 => some 0x7#4 -- R114
  | 0b11000 => none -- R115
  | 0b11001 => some 0x9#4 -- R116
  | 0b11010 => some 0xA#4 -- R117
  | 0b11011 => some 0xB#4 -- R118
  | 0b11100 => none -- R119
  | 0b11101 => some 0xD#4 -- R120
  | 0b11110 => some 0xE#4 -- R121
  | _ => none -- R122

/-- R15: the 5-bit image of a decode-table entry, the valid bit above the nibble. No operation reads the nibble bits of an
`INVALID` entry. -/
def decImage : Option Nibble → BitVec 5
  | some n => 1#1 ++ n
  | none => 0b00000#5

/-- R60: the 16 five-bit values that are not code words. -/
def invalidWords : List CodeWord :=
  [0b00000#5, 0b00001#5, 0b00010#5, 0b00011#5, 0b00100#5, 0b00101#5, 0b00110#5, 0b00111#5,
   0b01000#5, 0b01100#5, 0b10000#5, 0b10001#5, 0b10100#5, 0b11000#5, 0b11100#5, 0b11111#5]

/-- R70, the second loop on the encode table: `ENC_ROM[n] <- CW[n]`. -/
def builtEnc (n : Nibble) : CodeWord := codeWords.getD n.toNat 0

/-- R70, both loops on the decode table: every entry `INVALID` first, then `DEC_ROM[CW[n]] <- Nib(n)` for each pair of the
list; `n` counts the pairs from the list's start. -/
def builtDecFrom : Nat → List CodeWord → CodeWord → Option Nibble
  | _, [], _ => none
  | n, c :: cs, v => if v = c then some (BitVec.ofNat 4 n) else builtDecFrom (n + 1) cs v

/-- R70: the decode table the construction gives. -/
def builtDec (v : CodeWord) : Option Nibble := builtDecFrom 0 codeWords v

end Sys2Proof.Machine
end

