-- ==== Sys2Proof/Machine/Operands.lean ====
section
/-!
DEFINITION. The operand forms of R56: nibbles of a byte (R51), nibbles of a group (R52), fields of an encoded group (R53),
its bytes (R54), the packing of 8 code words and of 8 nibbles, and the addresses of group `g` in IN and OUT (R37).
-/

namespace Sys2Proof.Machine

/-- R51: the high nibble of a byte, `x[7:4]`. -/
def hiNibble (x : Byte) : Nibble := x.extractLsb' 4 4

/-- R51: the low nibble of a byte, `x[3:0]`. -/
def loNibble (x : Byte) : Nibble := x.extractLsb' 0 4

/-- R51, R56 (d): the byte of two nibbles, the high one first. -/
def pairNibbles (hi lo : Nibble) : Byte := hi ++ lo

/-- R52: byte `i` of a decoded group, `i = 0 .. 3`, byte 0 most significant. -/
def byteOfG (x : G32) (i : Nat) : Byte := x.extractLsb' (24 - 8 * i) 8

/-- R52: `nib[j] = G32[31-4j : 28-4j]`, `j = 0 .. 7`. -/
def nibbleOf (x : G32) (j : Nat) : Nibble := x.extractLsb' (28 - 4 * j) 4

/-- R53: `cw[j] = Q40[39-5j : 35-5j]`, `j = 0 .. 7`. -/
def fieldOf (q : Q40) (j : Nat) : CodeWord := q.extractLsb' (35 - 5 * j) 5

/-- R54: `c[k] = Q40[39-8k : 32-8k]`, `k = 0 .. 4`. -/
def byteOfQ (q : Q40) (k : Nat) : Byte := q.extractLsb' (32 - 8 * k) 8

/-- R53: the 40-bit value of 8 code words, the first one most significant. -/
def packFields (c0 c1 c2 c3 c4 c5 c6 c7 : CodeWord) : Q40 :=
  c0 ++ c1 ++ c2 ++ c3 ++ c4 ++ c5 ++ c6 ++ c7

/-- R56 (d): the 4 bytes of 8 nibbles as one value: nibbles paired high first, bytes in buffer order (R35). -/
def packNibbles (n0 n1 n2 n3 n4 n5 n6 n7 : Nibble) : G32 :=
  pairNibbles n0 n1 ++ pairNibbles n2 n3 ++ pairNibbles n4 n5 ++ pairNibbles n6 n7

/-- R33, R54: the 5 bytes of an encoded group, most significant first. -/
def bytesOfQ (q : Q40) : List Byte := [byteOfQ q 0, byteOfQ q 1, byteOfQ q 2, byteOfQ q 3, byteOfQ q 4]

/-- R35, R52: the 4 bytes of a decoded group in buffer order. -/
def bytesOfG (x : G32) : List Byte := [byteOfG x 0, byteOfG x 1, byteOfG x 2, byteOfG x 3]

/-- R37: the number of complete groups ENCODE has in `n` bytes. -/
def encodeGroups (n : Nat) : Nat := n / 4

/-- R37: the number of complete groups DECODE has in `n` bytes. -/
def decodeGroups (n : Nat) : Nat := n / 5

/-- R37, R132: where ENCODE reads group `g` in IN. -/
def encodeInAddr (g : Nat) : Nat := 4 * g

/-- R33, R132: where ENCODE writes group `g` in OUT. -/
def encodeOutAddr (g : Nat) : Nat := 5 * g

/-- R37, R142: where DECODE reads group `g` in IN. -/
def decodeInAddr (g : Nat) : Nat := 5 * g

/-- R35, R142: where DECODE writes group `g` in OUT. -/
def decodeOutAddr (g : Nat) : Nat := 4 * g

end Sys2Proof.Machine
end

