-- ==== Sys2Proof/Machine/Codec.lean ====
section
/-!
DEFINITION. The pure data path: one unit each way (R130, R140), the packer and unpacker forms of R131 and R141, and the
buffer operations as functions on byte sequences (R132, R142).
-/

namespace Sys2Proof.Machine

/-- R130, ENCODE_UNIT: 8 nibbles, high nibble of each byte first, looked up and packed most significant first. -/
def encodeUnit (x : G32) : Q40 :=
  packFields (encRom (nibbleOf x 0)) (encRom (nibbleOf x 1)) (encRom (nibbleOf x 2)) (encRom (nibbleOf x 3))
    (encRom (nibbleOf x 4)) (encRom (nibbleOf x 5)) (encRom (nibbleOf x 6)) (encRom (nibbleOf x 7))

/-- R140, DECODE_UNIT: 8 fields looked up; the 4 bytes if all are valid, `none` (the failure InvalidCodeWord) if any is
not. The failure carries nothing else (R161). -/
def decodeUnit (q : Q40) : Option G32 := do
  let n0 ← decRom (fieldOf q 0)
  let n1 ← decRom (fieldOf q 1)
  let n2 ← decRom (fieldOf q 2)
  let n3 ← decRom (fieldOf q 3)
  let n4 ← decRom (fieldOf q 4)
  let n5 ← decRom (fieldOf q 5)
  let n6 ← decRom (fieldOf q 6)
  let n7 ← decRom (fieldOf q 7)
  return packNibbles n0 n1 n2 n3 n4 n5 n6 n7

/-- R131 (a), the shift-in packer: one code word a step, `Q <- (Q << 5) | cw`. -/
def packShift (cws : List CodeWord) : Q40 :=
  cws.foldl (fun q c => (q <<< 5) ||| c.setWidth 40) 0

/-- R131 (b), the byte-emitting packer: `acc` holds `nbits` bits not yet given out; a byte comes out whenever there are 8. -/
def packEmit (acc nbits : Nat) : List CodeWord → List Byte
  | [] => []
  | c :: cs =>
    let acc' := acc * 2 ^ 5 + c.toNat
    let nbits' := nbits + 5
    if 8 ≤ nbits' then
      BitVec.ofNat 8 (acc' / 2 ^ (nbits' - 8)) :: packEmit (acc' % 2 ^ (nbits' - 8)) (nbits' - 8) cs
    else packEmit acc' nbits' cs

/-- R131 (b): what the byte-emitting packer still holds (value and bit count) after the code words. -/
def packHeld (acc nbits : Nat) : List CodeWord → Nat × Nat
  | [] => (acc, nbits)
  | c :: cs =>
    let acc' := acc * 2 ^ 5 + c.toNat
    let nbits' := nbits + 5
    if 8 ≤ nbits' then packHeld (acc' % 2 ^ (nbits' - 8)) (nbits' - 8) cs
    else packHeld acc' nbits' cs

/-- R141 (a), the shift-out unpacker: `n` fields, each the top 5 bits, then a shift left by 5 within 40 bits. -/
def unpackShift (t : Q40) : Nat → List CodeWord
  | 0 => []
  | n + 1 => t.extractLsb' 35 5 :: unpackShift (t <<< 5) n

/-- R141 (b): the code words a byte-fed accumulator gives out, at most `fuel` of them: while it holds 5 bits, the 5
oldest; then what is left (value and bit count). -/
def drainWords : Nat → Nat → Nat → List CodeWord × Nat × Nat
  | 0, acc, nbits => ([], acc, nbits)
  | fuel + 1, acc, nbits =>
    if 5 ≤ nbits then
      let r := drainWords fuel (acc % 2 ^ (nbits - 5)) (nbits - 5)
      (BitVec.ofNat 5 (acc / 2 ^ (nbits - 5)) :: r.1, r.2)
    else ([], acc, nbits)

/-- R141 (b), the byte-consuming unpacker: the code words of the bytes, and what is still held at the end. One byte gives
at most two code words. -/
def unpackFeed (acc nbits : Nat) : List Byte → List CodeWord × Nat × Nat
  | [] => ([], acc, nbits)
  | c :: cs =>
    let d := drainWords 2 (acc * 2 ^ 8 + c.toNat) (nbits + 8)
    let r := unpackFeed d.2.1 d.2.2 cs
    (d.1 ++ r.1, r.2)

/-- R132, `encode(s)`: complete groups of 4 in order, 5 bytes each; the trailing 0 to 3 bytes are dropped (R38). -/
def encodeBytes : List Byte → List Byte
  | b0 :: b1 :: b2 :: b3 :: rest => bytesOfQ (encodeUnit (b0 ++ b1 ++ b2 ++ b3)) ++ encodeBytes rest
  | _ => []

/-- R142, `decode(s)`: complete groups of 5 in order, 4 bytes each, or `none` (the failure) if any complete group fails
(R143); the trailing 0 to 4 bytes are dropped and never looked up (R39). -/
def decodeBytes : List Byte → Option (List Byte)
  | c0 :: c1 :: c2 :: c3 :: c4 :: rest =>
    match decodeUnit (c0 ++ c1 ++ c2 ++ c3 ++ c4), decodeBytes rest with
    | some x, some ys => some (bytesOfG x ++ ys)
    | _, _ => none
  | _ => some []

/-! ### The bit stream (the properties listed under R74) -/

/-- The bits of a code word, most significant first. -/
def codeBits (c : CodeWord) : List Bool :=
  [c.getLsbD 4, c.getLsbD 3, c.getLsbD 2, c.getLsbD 1, c.getLsbD 0]

/-- The bits of a byte, most significant first. -/
def byteBits (b : Byte) : List Bool :=
  [b.getLsbD 7, b.getLsbD 6, b.getLsbD 5, b.getLsbD 4, b.getLsbD 3, b.getLsbD 2, b.getLsbD 1, b.getLsbD 0]

/-- A byte sequence as a bit stream, most significant bit of the first byte first. -/
def bitStream (bs : List Byte) : List Bool := bs.flatMap byteBits

end Sys2Proof.Machine
end

