-- ==== Sys2Proof/Syntax.lean ====
section
/-!
DEFINITION. The syntax, whole: one constructor per row of spec/opcode_table.json (57 rows), in the table's order. No row
has an operand field: the operands of an operation stand on ports of their own and in the buffer IN (R57, R58), so no
constructor has an argument.
-/

namespace Sys2Proof

/-- The operations (R58) and the ROM rows (R75 to R122) of spec/opcode_table.json. A ROM row stands for the lookup of
that one entry (log 2). -/
inductive Instr where
  /-- CONSTRUCT (R70): `rst = 1`, any `cmd`; the block goes to its reset state. -/
  | construct
  /-- NOP (R170): no command presented. -/
  | nop
  /-- ENCODE (R132): the buffer IN of `in_len` bytes, 4 bytes to 5, into OUT. -/
  | encode
  /-- DECODE (R142): the buffer IN of `in_len` bytes, 5 bytes to 4, into OUT, all or nothing. -/
  | decode
  /-- ENCODE_UNIT (R130): one group `eu_in` to `eu_out`. -/
  | encodeUnit
  /-- DECODE_UNIT (R140): one group `du_in` to `du_ok`, `du_out`. -/
  | decodeUnit
  /-- ENC_LUT (R71): one lookup in the encode table at `enc_addr`. -/
  | encLut
  /-- DEC_LUT (R72): one lookup in the decode table at `dec_addr`. -/
  | decLut
  /-- `cmd = 0b111` (R59): reserved; refused. -/
  | reserved
  /-- `ENC_ROM[0x0]` (R75): the encode-table lookup of nibble 0x0. -/
  | encRom0
  /-- `ENC_ROM[0x1]` (R76): the encode-table lookup of nibble 0x1. -/
  | encRom1
  /-- `ENC_ROM[0x2]` (R77): the encode-table lookup of nibble 0x2. -/
  | encRom2
  /-- `ENC_ROM[0x3]` (R78): the encode-table lookup of nibble 0x3. -/
  | encRom3
  /-- `ENC_ROM[0x4]` (R79): the encode-table lookup of nibble 0x4. -/
  | encRom4
  /-- `ENC_ROM[0x5]` (R80): the encode-table lookup of nibble 0x5. -/
  | encRom5
  /-- `ENC_ROM[0x6]` (R81): the encode-table lookup of nibble 0x6. -/
  | encRom6
  /-- `ENC_ROM[0x7]` (R82): the encode-table lookup of nibble 0x7. -/
  | encRom7
  /-- `ENC_ROM[0x8]` (R83): the encode-table lookup of nibble 0x8. -/
  | encRom8
  /-- `ENC_ROM[0x9]` (R84): the encode-table lookup of nibble 0x9. -/
  | encRom9
  /-- `ENC_ROM[0xA]` (R85): the encode-table lookup of nibble 0xA. -/
  | encRomA
  /-- `ENC_ROM[0xB]` (R86): the encode-table lookup of nibble 0xB. -/
  | encRomB
  /-- `ENC_ROM[0xC]` (R87): the encode-table lookup of nibble 0xC. -/
  | encRomC
  /-- `ENC_ROM[0xD]` (R88): the encode-table lookup of nibble 0xD. -/
  | encRomD
  /-- `ENC_ROM[0xE]` (R89): the encode-table lookup of nibble 0xE. -/
  | encRomE
  /-- `ENC_ROM[0xF]` (R90): the encode-table lookup of nibble 0xF. -/
  | encRomF
  /-- `DEC_ROM[0b00000]` (R91): the decode-table lookup of that index. -/
  | decRom00
  /-- `DEC_ROM[0b00001]` (R92): the decode-table lookup of that index. -/
  | decRom01
  /-- `DEC_ROM[0b00010]` (R93): the decode-table lookup of that index. -/
  | decRom02
  /-- `DEC_ROM[0b00011]` (R94): the decode-table lookup of that index. -/
  | decRom03
  /-- `DEC_ROM[0b00100]` (R95): the decode-table lookup of that index. -/
  | decRom04
  /-- `DEC_ROM[0b00101]` (R96): the decode-table lookup of that index. -/
  | decRom05
  /-- `DEC_ROM[0b00110]` (R97): the decode-table lookup of that index. -/
  | decRom06
  /-- `DEC_ROM[0b00111]` (R98): the decode-table lookup of that index. -/
  | decRom07
  /-- `DEC_ROM[0b01000]` (R99): the decode-table lookup of that index. -/
  | decRom08
  /-- `DEC_ROM[0b01001]` (R100): the decode-table lookup of that index. -/
  | decRom09
  /-- `DEC_ROM[0b01010]` (R101): the decode-table lookup of that index. -/
  | decRom0A
  /-- `DEC_ROM[0b01011]` (R102): the decode-table lookup of that index. -/
  | decRom0B
  /-- `DEC_ROM[0b01100]` (R103): the decode-table lookup of that index. -/
  | decRom0C
  /-- `DEC_ROM[0b01101]` (R104): the decode-table lookup of that index. -/
  | decRom0D
  /-- `DEC_ROM[0b01110]` (R105): the decode-table lookup of that index. -/
  | decRom0E
  /-- `DEC_ROM[0b01111]` (R106): the decode-table lookup of that index. -/
  | decRom0F
  /-- `DEC_ROM[0b10000]` (R107): the decode-table lookup of that index. -/
  | decRom10
  /-- `DEC_ROM[0b10001]` (R108): the decode-table lookup of that index. -/
  | decRom11
  /-- `DEC_ROM[0b10010]` (R109): the decode-table lookup of that index. -/
  | decRom12
  /-- `DEC_ROM[0b10011]` (R110): the decode-table lookup of that index. -/
  | decRom13
  /-- `DEC_ROM[0b10100]` (R111): the decode-table lookup of that index. -/
  | decRom14
  /-- `DEC_ROM[0b10101]` (R112): the decode-table lookup of that index. -/
  | decRom15
  /-- `DEC_ROM[0b10110]` (R113): the decode-table lookup of that index. -/
  | decRom16
  /-- `DEC_ROM[0b10111]` (R114): the decode-table lookup of that index. -/
  | decRom17
  /-- `DEC_ROM[0b11000]` (R115): the decode-table lookup of that index. -/
  | decRom18
  /-- `DEC_ROM[0b11001]` (R116): the decode-table lookup of that index. -/
  | decRom19
  /-- `DEC_ROM[0b11010]` (R117): the decode-table lookup of that index. -/
  | decRom1A
  /-- `DEC_ROM[0b11011]` (R118): the decode-table lookup of that index. -/
  | decRom1B
  /-- `DEC_ROM[0b11100]` (R119): the decode-table lookup of that index. -/
  | decRom1C
  /-- `DEC_ROM[0b11101]` (R120): the decode-table lookup of that index. -/
  | decRom1D
  /-- `DEC_ROM[0b11110]` (R121): the decode-table lookup of that index. -/
  | decRom1E
  /-- `DEC_ROM[0b11111]` (R122): the decode-table lookup of that index. -/
  | decRom1F
  deriving DecidableEq, Repr

/-- The row's mnemonic in spec/opcode_table.json. -/
def Instr.mnemonic : Instr → String
  | .construct => "CONSTRUCT"
  | .nop => "NOP"
  | .encode => "ENCODE"
  | .decode => "DECODE"
  | .encodeUnit => "ENCODE_UNIT"
  | .decodeUnit => "DECODE_UNIT"
  | .encLut => "ENC_LUT"
  | .decLut => "DEC_LUT"
  | .reserved => "RESERVED"
  | .encRom0 => "ENC_ROM[0x0]"
  | .encRom1 => "ENC_ROM[0x1]"
  | .encRom2 => "ENC_ROM[0x2]"
  | .encRom3 => "ENC_ROM[0x3]"
  | .encRom4 => "ENC_ROM[0x4]"
  | .encRom5 => "ENC_ROM[0x5]"
  | .encRom6 => "ENC_ROM[0x6]"
  | .encRom7 => "ENC_ROM[0x7]"
  | .encRom8 => "ENC_ROM[0x8]"
  | .encRom9 => "ENC_ROM[0x9]"
  | .encRomA => "ENC_ROM[0xA]"
  | .encRomB => "ENC_ROM[0xB]"
  | .encRomC => "ENC_ROM[0xC]"
  | .encRomD => "ENC_ROM[0xD]"
  | .encRomE => "ENC_ROM[0xE]"
  | .encRomF => "ENC_ROM[0xF]"
  | .decRom00 => "DEC_ROM[0b00000]"
  | .decRom01 => "DEC_ROM[0b00001]"
  | .decRom02 => "DEC_ROM[0b00010]"
  | .decRom03 => "DEC_ROM[0b00011]"
  | .decRom04 => "DEC_ROM[0b00100]"
  | .decRom05 => "DEC_ROM[0b00101]"
  | .decRom06 => "DEC_ROM[0b00110]"
  | .decRom07 => "DEC_ROM[0b00111]"
  | .decRom08 => "DEC_ROM[0b01000]"
  | .decRom09 => "DEC_ROM[0b01001]"
  | .decRom0A => "DEC_ROM[0b01010]"
  | .decRom0B => "DEC_ROM[0b01011]"
  | .decRom0C => "DEC_ROM[0b01100]"
  | .decRom0D => "DEC_ROM[0b01101]"
  | .decRom0E => "DEC_ROM[0b01110]"
  | .decRom0F => "DEC_ROM[0b01111]"
  | .decRom10 => "DEC_ROM[0b10000]"
  | .decRom11 => "DEC_ROM[0b10001]"
  | .decRom12 => "DEC_ROM[0b10010]"
  | .decRom13 => "DEC_ROM[0b10011]"
  | .decRom14 => "DEC_ROM[0b10100]"
  | .decRom15 => "DEC_ROM[0b10101]"
  | .decRom16 => "DEC_ROM[0b10110]"
  | .decRom17 => "DEC_ROM[0b10111]"
  | .decRom18 => "DEC_ROM[0b11000]"
  | .decRom19 => "DEC_ROM[0b11001]"
  | .decRom1A => "DEC_ROM[0b11010]"
  | .decRom1B => "DEC_ROM[0b11011]"
  | .decRom1C => "DEC_ROM[0b11100]"
  | .decRom1D => "DEC_ROM[0b11101]"
  | .decRom1E => "DEC_ROM[0b11110]"
  | .decRom1F => "DEC_ROM[0b11111]"

/-- R63: how the spec spells the operation (D19); a ROM row is the lookup spelled with its index. The reserved command
has no spelling. -/
def Instr.spelling : Instr → Option String
  | .construct => some "construct()"
  | .nop => some "nop"
  | .encode => some "encode([bytes])"
  | .decode => some "decode([bytes])"
  | .encodeUnit => some "encode_unit([b0,b1,b2,b3])"
  | .decodeUnit => some "decode_unit(q)"
  | .encLut => some "enc_lut(n)"
  | .decLut => some "dec_lut(v)"
  | .reserved => none
  | .encRom0 => some "enc_lut(0x0)"
  | .encRom1 => some "enc_lut(0x1)"
  | .encRom2 => some "enc_lut(0x2)"
  | .encRom3 => some "enc_lut(0x3)"
  | .encRom4 => some "enc_lut(0x4)"
  | .encRom5 => some "enc_lut(0x5)"
  | .encRom6 => some "enc_lut(0x6)"
  | .encRom7 => some "enc_lut(0x7)"
  | .encRom8 => some "enc_lut(0x8)"
  | .encRom9 => some "enc_lut(0x9)"
  | .encRomA => some "enc_lut(0xA)"
  | .encRomB => some "enc_lut(0xB)"
  | .encRomC => some "enc_lut(0xC)"
  | .encRomD => some "enc_lut(0xD)"
  | .encRomE => some "enc_lut(0xE)"
  | .encRomF => some "enc_lut(0xF)"
  | .decRom00 => some "dec_lut(0b00000)"
  | .decRom01 => some "dec_lut(0b00001)"
  | .decRom02 => some "dec_lut(0b00010)"
  | .decRom03 => some "dec_lut(0b00011)"
  | .decRom04 => some "dec_lut(0b00100)"
  | .decRom05 => some "dec_lut(0b00101)"
  | .decRom06 => some "dec_lut(0b00110)"
  | .decRom07 => some "dec_lut(0b00111)"
  | .decRom08 => some "dec_lut(0b01000)"
  | .decRom09 => some "dec_lut(0b01001)"
  | .decRom0A => some "dec_lut(0b01010)"
  | .decRom0B => some "dec_lut(0b01011)"
  | .decRom0C => some "dec_lut(0b01100)"
  | .decRom0D => some "dec_lut(0b01101)"
  | .decRom0E => some "dec_lut(0b01110)"
  | .decRom0F => some "dec_lut(0b01111)"
  | .decRom10 => some "dec_lut(0b10000)"
  | .decRom11 => some "dec_lut(0b10001)"
  | .decRom12 => some "dec_lut(0b10010)"
  | .decRom13 => some "dec_lut(0b10011)"
  | .decRom14 => some "dec_lut(0b10100)"
  | .decRom15 => some "dec_lut(0b10101)"
  | .decRom16 => some "dec_lut(0b10110)"
  | .decRom17 => some "dec_lut(0b10111)"
  | .decRom18 => some "dec_lut(0b11000)"
  | .decRom19 => some "dec_lut(0b11001)"
  | .decRom1A => some "dec_lut(0b11010)"
  | .decRom1B => some "dec_lut(0b11011)"
  | .decRom1C => some "dec_lut(0b11100)"
  | .decRom1D => some "dec_lut(0b11101)"
  | .decRom1E => some "dec_lut(0b11110)"
  | .decRom1F => some "dec_lut(0b11111)"

end Sys2Proof
end

