-- ==== Sys2Proof/WellFormed.lean ====
section
/-!
DEFINITION. Well-formed instructions. No constructor of `Instr` has an operand, so the one thing there is to check is
that the instruction is an operation of the block: `cmd = 0b111` is not one ("the host must not present it", R59).
-/

namespace Sys2Proof

/-- R59, R185 (f): an instruction a host may present. -/
def Instr.wellFormed : Instr → Bool
  | .reserved => false
  | _ => true

end Sys2Proof
end

