-- ==== Sys2Proof/Decode.lean ====
section
/-!
DEFINITION. The decoder, total on any bytes, and the encoder, over one selector byte.

The table numbers a row's bits inside its own format (CMD: 4 bits `rst, cmd`; ENC_ROM: a 4-bit index; DEC_ROM: a 5-bit
index), so rows of different formats have the same bits. The model's selector byte keeps the table's bits where they
already name one row and adds a format tag in the top bits where they would not (log 3):

* `0000 rccc`: a CMD row, `r` = `rst`, `ccc` = `cmd` (R58); with `rst = 1` the `cmd` bits are ignored (R180);
* `0001 vvvv`: a DEC_ROM row with index `1vvvv` (five bits, which no CMD row has);
* `0100 nnnn`: an ENC_ROM row with index `nnnn` (tag 01);
* `1000 vvvv`: a DEC_ROM row with index `0vvvv` (tag 10).

Every other byte is no row, and is refused by name.
-/

namespace Sys2Proof

/-- R58: the operation the 3-bit `cmd` port selects while `rst = 0`. -/
def commandOf (cmd : BitVec 3) : Instr :=
  match cmd.toNat with
  | 0b000 => .nop
  | 0b001 => .encode
  | 0b010 => .decode
  | 0b011 => .encodeUnit
  | 0b100 => .decodeUnit
  | 0b101 => .encLut
  | 0b110 => .decLut
  | _ => .reserved

/-- R58, R180: the operation on the 4-bit selector word `rst, cmd`. -/
def selectorOf (w : BitVec 4) : Instr :=
  if w.getLsbD 3 then .construct else commandOf (w.extractLsb' 0 3)

/-- The ENC_ROM row of a nibble (R75 to R90). -/
def encRomRow (n : Nibble) : Instr :=
  match n.toNat with
  | 0x0 => .encRom0
  | 0x1 => .encRom1
  | 0x2 => .encRom2
  | 0x3 => .encRom3
  | 0x4 => .encRom4
  | 0x5 => .encRom5
  | 0x6 => .encRom6
  | 0x7 => .encRom7
  | 0x8 => .encRom8
  | 0x9 => .encRom9
  | 0xA => .encRomA
  | 0xB => .encRomB
  | 0xC => .encRomC
  | 0xD => .encRomD
  | 0xE => .encRomE
  | _ => .encRomF

/-- The DEC_ROM row of a 5-bit index (R91 to R122). -/
def decRomRow (v : CodeWord) : Instr :=
  match v.toNat with
  | 0b00000 => .decRom00
  | 0b00001 => .decRom01
  | 0b00010 => .decRom02
  | 0b00011 => .decRom03
  | 0b00100 => .decRom04
  | 0b00101 => .decRom05
  | 0b00110 => .decRom06
  | 0b00111 => .decRom07
  | 0b01000 => .decRom08
  | 0b01001 => .decRom09
  | 0b01010 => .decRom0A
  | 0b01011 => .decRom0B
  | 0b01100 => .decRom0C
  | 0b01101 => .decRom0D
  | 0b01110 => .decRom0E
  | 0b01111 => .decRom0F
  | 0b10000 => .decRom10
  | 0b10001 => .decRom11
  | 0b10010 => .decRom12
  | 0b10011 => .decRom13
  | 0b10100 => .decRom14
  | 0b10101 => .decRom15
  | 0b10110 => .decRom16
  | 0b10111 => .decRom17
  | 0b11000 => .decRom18
  | 0b11001 => .decRom19
  | 0b11010 => .decRom1A
  | 0b11011 => .decRom1B
  | 0b11100 => .decRom1C
  | 0b11101 => .decRom1D
  | 0b11110 => .decRom1E
  | _ => .decRom1F

/-- The row a selector byte names, if any. -/
def decodeWord (w : Byte) : Option Instr :=
  match (w.extractLsb' 4 4).toNat with
  | 0b0000 => some (selectorOf (w.extractLsb' 0 4))
  | 0b0001 => some (decRomRow (1#1 ++ w.extractLsb' 0 4))
  | 0b0100 => some (encRomRow (w.extractLsb' 0 4))
  | 0b1000 => some (decRomRow (0#1 ++ w.extractLsb' 0 4))
  | _ => none

/-- Why bytes are no instruction. -/
inductive DecodeError where
  /-- No byte to read. -/
  | noSelector
  /-- A byte that is no row of the table. -/
  | noSuchRow (w : Byte)
  deriving DecidableEq, Repr

/-- The decoder on any bytes: the instruction of the first byte and the bytes after it. Every instruction is one byte. -/
def decode : List Byte → Except DecodeError (Instr × List Byte)
  | [] => .error .noSelector
  | w :: rest =>
    match decodeWord w with
    | some i => .ok (i, rest)
    | none => .error (.noSuchRow w)

/-- The selector byte of an instruction: the row's bits in the table, with its format tag where it needs one. CONSTRUCT is
written with `cmd = 0b000`, which it ignores (R180). -/
def encodeWord : Instr → Byte
  | .construct => 0b00001000#8
  | .nop => 0b00000000#8
  | .encode => 0b00000001#8
  | .decode => 0b00000010#8
  | .encodeUnit => 0b00000011#8
  | .decodeUnit => 0b00000100#8
  | .encLut => 0b00000101#8
  | .decLut => 0b00000110#8
  | .reserved => 0b00000111#8
  | .encRom0 => 0b01000000#8
  | .encRom1 => 0b01000001#8
  | .encRom2 => 0b01000010#8
  | .encRom3 => 0b01000011#8
  | .encRom4 => 0b01000100#8
  | .encRom5 => 0b01000101#8
  | .encRom6 => 0b01000110#8
  | .encRom7 => 0b01000111#8
  | .encRom8 => 0b01001000#8
  | .encRom9 => 0b01001001#8
  | .encRomA => 0b01001010#8
  | .encRomB => 0b01001011#8
  | .encRomC => 0b01001100#8
  | .encRomD => 0b01001101#8
  | .encRomE => 0b01001110#8
  | .encRomF => 0b01001111#8
  | .decRom00 => 0b10000000#8
  | .decRom01 => 0b10000001#8
  | .decRom02 => 0b10000010#8
  | .decRom03 => 0b10000011#8
  | .decRom04 => 0b10000100#8
  | .decRom05 => 0b10000101#8
  | .decRom06 => 0b10000110#8
  | .decRom07 => 0b10000111#8
  | .decRom08 => 0b10001000#8
  | .decRom09 => 0b10001001#8
  | .decRom0A => 0b10001010#8
  | .decRom0B => 0b10001011#8
  | .decRom0C => 0b10001100#8
  | .decRom0D => 0b10001101#8
  | .decRom0E => 0b10001110#8
  | .decRom0F => 0b10001111#8
  | .decRom10 => 0b00010000#8
  | .decRom11 => 0b00010001#8
  | .decRom12 => 0b00010010#8
  | .decRom13 => 0b00010011#8
  | .decRom14 => 0b00010100#8
  | .decRom15 => 0b00010101#8
  | .decRom16 => 0b00010110#8
  | .decRom17 => 0b00010111#8
  | .decRom18 => 0b00011000#8
  | .decRom19 => 0b00011001#8
  | .decRom1A => 0b00011010#8
  | .decRom1B => 0b00011011#8
  | .decRom1C => 0b00011100#8
  | .decRom1D => 0b00011101#8
  | .decRom1E => 0b00011110#8
  | .decRom1F => 0b00011111#8

/-- The bytes of an instruction. -/
def encode (i : Instr) : List Byte := [encodeWord i]

/-- The low `nbits` bits of `w` as the byte at the block's selector; the bits above `nbits` are 0 (an instruction is one
byte long, so nothing above bit 7 belongs to it). -/
def layoutWord (nbits w : Nat) : Byte := BitVec.ofNat 8 (w % 2 ^ nbits)

/-- The instruction the decoder reads from bits `w` numbered as the opcode table numbers them. -/
def decodeTableWord (nbits w : Nat) : Option Instr :=
  match decode [layoutWord nbits w] with
  | .ok (i, _) => some i
  | .error _ => none

/-- The row of spec/opcode_table.json an instruction stands for, as the table writes it: `(mask, match)` over the row's own
bits (CMD and ENC_ROM rows: bits 3:0; DEC_ROM rows: bits 4:0). -/
def tableRow : Instr → Nat × Nat
  | .construct => (0x8, 0x8)
  | .nop => (0xF, 0x0)
  | .encode => (0xF, 0x1)
  | .decode => (0xF, 0x2)
  | .encodeUnit => (0xF, 0x3)
  | .decodeUnit => (0xF, 0x4)
  | .encLut => (0xF, 0x5)
  | .decLut => (0xF, 0x6)
  | .reserved => (0xF, 0x7)
  | .encRom0 => (0xF, 0x0)
  | .encRom1 => (0xF, 0x1)
  | .encRom2 => (0xF, 0x2)
  | .encRom3 => (0xF, 0x3)
  | .encRom4 => (0xF, 0x4)
  | .encRom5 => (0xF, 0x5)
  | .encRom6 => (0xF, 0x6)
  | .encRom7 => (0xF, 0x7)
  | .encRom8 => (0xF, 0x8)
  | .encRom9 => (0xF, 0x9)
  | .encRomA => (0xF, 0xA)
  | .encRomB => (0xF, 0xB)
  | .encRomC => (0xF, 0xC)
  | .encRomD => (0xF, 0xD)
  | .encRomE => (0xF, 0xE)
  | .encRomF => (0xF, 0xF)
  | .decRom00 => (0x1F, 0x00)
  | .decRom01 => (0x1F, 0x01)
  | .decRom02 => (0x1F, 0x02)
  | .decRom03 => (0x1F, 0x03)
  | .decRom04 => (0x1F, 0x04)
  | .decRom05 => (0x1F, 0x05)
  | .decRom06 => (0x1F, 0x06)
  | .decRom07 => (0x1F, 0x07)
  | .decRom08 => (0x1F, 0x08)
  | .decRom09 => (0x1F, 0x09)
  | .decRom0A => (0x1F, 0x0A)
  | .decRom0B => (0x1F, 0x0B)
  | .decRom0C => (0x1F, 0x0C)
  | .decRom0D => (0x1F, 0x0D)
  | .decRom0E => (0x1F, 0x0E)
  | .decRom0F => (0x1F, 0x0F)
  | .decRom10 => (0x1F, 0x10)
  | .decRom11 => (0x1F, 0x11)
  | .decRom12 => (0x1F, 0x12)
  | .decRom13 => (0x1F, 0x13)
  | .decRom14 => (0x1F, 0x14)
  | .decRom15 => (0x1F, 0x15)
  | .decRom16 => (0x1F, 0x16)
  | .decRom17 => (0x1F, 0x17)
  | .decRom18 => (0x1F, 0x18)
  | .decRom19 => (0x1F, 0x19)
  | .decRom1A => (0x1F, 0x1A)
  | .decRom1B => (0x1F, 0x1B)
  | .decRom1C => (0x1F, 0x1C)
  | .decRom1D => (0x1F, 0x1D)
  | .decRom1E => (0x1F, 0x1E)
  | .decRom1F => (0x1F, 0x1F)

end Sys2Proof
end

