-- ==== Sys2Proof/Machine/Memory.lean ====
section
/-!
DEFINITION. A byte space (IN or OUT, R30): a list of (address, byte) pairs in one canonical form, addresses strictly rising.
An address that is not listed has no value: nobody has put a byte there (log 7). So no listed entry can equal what an
unlisted address reads as, and equal spaces are equal lists.
-/

namespace Sys2Proof.Machine

/-- R30, R31: a byte-addressed space, indexed from 0. -/
abbrev Memory := List Host.Cell

/-- The canonical form: addresses strictly rising. -/
def Memory.wf : Memory → Bool
  | [] => true
  | [_] => true
  | (a, _) :: (b, c) :: rest => decide (a < b) && Memory.wf ((b, c) :: rest)

/-- The byte at an address, if there is one. -/
def Memory.read (m : Memory) (a : Nat) : Option Byte :=
  match m with
  | [] => none
  | (b, c) :: rest => if b = a then some c else Memory.read rest a

/-- The space with one byte written; the canonical form is kept. -/
def Memory.write (m : Memory) (a : Nat) (v : Byte) : Memory :=
  match m with
  | [] => [(a, v)]
  | (b, c) :: rest =>
    if a < b then (a, v) :: (b, c) :: rest
    else if a = b then (a, v) :: rest
    else (b, c) :: Memory.write rest a v

/-- `slice(m, a, n)` of R6: the `n` bytes from address `a` on, if all of them are there. -/
def Memory.slice (m : Memory) (a : Nat) : Nat → Option (List Byte)
  | 0 => some []
  | n + 1 =>
    match m.read a, Memory.slice m (a + 1) n with
    | some b, some bs => some (b :: bs)
    | _, _ => none

/-- The space that holds the bytes `bs` from address `a` on and nothing else. -/
def Memory.ofBytes (a : Nat) : List Byte → Memory
  | [] => []
  | b :: bs => (a, b) :: Memory.ofBytes (a + 1) bs

/-- `MemRead(m, a, 4)` of R6: four bytes, the one at `a` most significant (R35, R56 e). -/
def Memory.read4 (m : Memory) (a : Nat) : Option G32 :=
  match m.read a, m.read (a + 1), m.read (a + 2), m.read (a + 3) with
  | some b0, some b1, some b2, some b3 => some (b0 ++ b1 ++ b2 ++ b3)
  | _, _, _, _ => none

/-- `MemRead(m, a, 5)` of R6: five bytes, the one at `a` most significant (R34, R56 f). -/
def Memory.read5 (m : Memory) (a : Nat) : Option Q40 :=
  match m.read a, m.read (a + 1), m.read (a + 2), m.read (a + 3), m.read (a + 4) with
  | some c0, some c1, some c2, some c3, some c4 => some (c0 ++ c1 ++ c2 ++ c3 ++ c4)
  | _, _, _, _, _ => none

/-- Bytes written one after another in rising address order (R42), the first at `a`. -/
def Memory.writeBytes (m : Memory) (a : Nat) : List Byte → Memory
  | [] => m
  | b :: bs => Memory.writeBytes (m.write a b) (a + 1) bs

end Sys2Proof.Machine
end

