-- ==== Sys2Proof/Machine/State.lean ====
section
/-!
DEFINITION. The machine's state as plain data, why a step can stop, and the state after reset. INVENTORY.md, '## State',
lists every field with the rule that names it. The two tables are ROM, the same in every state (R13), and stand in
Machine/CodeTable.lean (log 1).
-/

namespace Sys2Proof.Machine

/-- R16: which buffer operation is running, the 1-bit register `op` (0 ENCODE, 1 DECODE). -/
inductive BufferOp where
  | encode
  | decode
  deriving DecidableEq, Repr

/-- R16: the bit the register `op` holds. -/
def BufferOp.bit : BufferOp → BitVec 1
  | .encode => 0
  | .decode => 1

/-- R18, R160: the 1-bit result `status` (0 OK, 1 InvalidCodeWord). -/
inductive Status where
  | ok
  | invalidCodeWord
  deriving DecidableEq, Repr

/-- R18, R160: the bit the output `status` shows. -/
def Status.bit : Status → BitVec 1
  | .ok => 0
  | .invalidCodeWord => 1

/-- R19: the operations that end with `done` and write result outputs. -/
inductive Operation where
  | encode
  | decode
  | encodeUnit
  | decodeUnit
  | encLut
  | decLut
  deriving DecidableEq, Repr

/-- R57: the input ports, and the buffer IN, as the host drives them. The selector byte holds `rst` in bit 3 and `cmd` in
bits 2:0 (R58), with the format tag of Decode.lean above them. -/
structure Inputs where
  sel : Byte
  encAddr : Nibble
  decAddr : CodeWord
  euIn : G32
  duIn : Q40
  inLen : Nat
  inMem : Memory
  deriving DecidableEq, Repr

/-- R58: the port `rst`, for a selector of the command port (`0000rccc`). On any other selector this is bit 3 of the model's
selector byte and no more: the spec puts no table row on the command port, so what `rst` reads there is a DESIGN CHOICE
(log 27), and a 1 there is no reset. No meaning reads it; `decodeWord` alone says what a selector does. -/
def Inputs.rst (p : Inputs) : BitVec 1 := p.sel.extractLsb' 3 1

/-- R58: the port `cmd`, for a selector of the command port (`0000rccc`). On any other selector this is bits 2:0 of the
model's selector byte and no more: a DESIGN CHOICE (log 27), and no command. No meaning reads it. -/
def Inputs.cmd (p : Inputs) : BitVec 3 := p.sel.extractLsb' 0 3

/-- R19, R57: the unit result ports. -/
structure UnitPorts where
  encData : CodeWord
  decValid : Bool
  decData : Nibble
  euOut : Q40
  duOk : Bool
  duOut : G32
  deriving DecidableEq, Repr

/-- R186: one host move, the values it drives on the ports. `atOnce`: the host does not wait for `done`, so the move falls
on the very next step even while `busy` (R182 needs such a move; a command so presented is refused, R185 a). `stepwise`: a
buffer command is run one group a step (R134, R145) instead of as one event (R132, R142); D1 gives both readings (log 5). -/
structure Presentation where
  inp : Inputs
  atOnce : Bool
  stepwise : Bool
  deriving DecidableEq, Repr

/-- The state of one block instance and of what its host will do next. -/
structure State where
  /-- R183: the block has been reset since power-up. -/
  constructed : Bool
  /-- R16: between the start of a buffer operation and its `done`. -/
  busy : Bool
  /-- R16: the running buffer operation; meaningful only while `busy`. -/
  op : BufferOp
  /-- R16: `n_in`, the `in_len` latched at the start. -/
  nIn : Nat
  /-- R17: the group counter; a free value after a DECODE that failed (R161, log 25). -/
  g : Nat
  /-- R19: `out_len`. -/
  outLen : Nat
  /-- R18: `status`. -/
  status : Status
  /-- R19, R57: the `done` event: the operation that ended last, its outputs valid until the next command. -/
  done : Option Operation
  /-- R19, R57: the unit result ports. -/
  unit : UnitPorts
  /-- R30 (b): the buffer OUT. -/
  out : Memory
  /-- R30 (a), R57: the input ports and the buffer IN. -/
  inp : Inputs
  /-- The model's own: what the host will present next, first move first (log 4). -/
  host : List Presentation
  /-- The model's own: the index of the next free values, of the unit result ports (log 8) and of `g` (log 25). -/
  freeIndex : Nat
  deriving DecidableEq, Repr

/-- Why the machine stops with a fault. -/
inductive Fault where
  /-- Raised by ENCODE and DECODE (and their group steps) on a complete group at this address that holds a byte the host has
  not supplied: `in_len` says more than IN holds (R30 a). Safe: the machine stops where a byte has no value. -/
  | inByteAbsent (addr : Nat)
  /-- Raised by a busy block whose group counter is past the last group: R134 and R145 give no step there. Safe: no run
  reaches such a state. -/
  | noStepEnabled
  deriving DecidableEq, Repr

/-- Why an instruction or a host move has no meaning. -/
inductive Refusal where
  /-- Raised by an arm of `exec` with no meaning yet; no arm is left so. Safe. -/
  | notModelled (mnemonic : String)
  /-- Raised by `cmd = 0b111` (R59, D4, U9): a model refuses it. Safe. -/
  | reservedCommand
  /-- Raised by a command to a block never reset since power-up (R183, D17, U12): a model refuses it. Safe. -/
  | neverReset
  /-- Raised by a command presented while `busy = 1` (R185 a, U10). Safe. -/
  | commandWhileBusy
  /-- Raised when the host, presenting no command, changes IN or `in_len` while `busy = 1` (R185 b, U11), so that the
  running operation would go on with other operands. Bytes at or above `in_len` count as IN here (log 28). A reset presented
  with other operands is not refused: it abandons the operation (log 26). Safe. -/
  | inputChangedWhileBusy
  /-- Raised by a selector byte that is no row of the opcode table (log 3). Safe: `rst, cmd` alone never give one. -/
  | unknownSelector (w : Byte)
  deriving DecidableEq, Repr

/-- What a step answers. -/
abbrev Answer := Host.Outcome State Fault Refusal

/-- The selector byte of NOP, the idle value of the command port (R170). -/
def idleSelector : Byte := 0b00000000#8

/-- The input ports before the host has driven any: DESIGN CHOICE, the spec gives inputs no reset value (log 7). -/
def Inputs.initial : Inputs :=
  { sel := idleSelector, encAddr := 0, decAddr := 0, euIn := 0, duIn := 0, inLen := 0, inMem := [] }

/-- The unit result ports after reset: R22 leaves them unspecified; zeros are a DESIGN CHOICE (log 6). -/
def UnitPorts.initial : UnitPorts :=
  { encData := 0, decValid := false, decData := 0, euOut := 0, duOk := false, duOut := 0 }

/-- R22, R180: the block right after reset, idle. -/
def State.reset : State :=
  { constructed := true, busy := false, op := .encode, nIn := 0, g := 0, outLen := 0, status := .ok, done := none,
    unit := UnitPorts.initial, out := [], inp := Inputs.initial, host := [], freeIndex := 0 }

/-- R175, R183: the block at power-up, not yet reset. What its registers hold is not said; reset's values stand in
(log 22), and every command but reset is refused. -/
def State.powerOn : State := { State.reset with constructed := false }

end Sys2Proof.Machine
end

