-- ==== Sys2Proof/Machine/Flags.lean ====
section
/-!
DEFINITION. The two one-bit conditions of the block (R18), and no others: the validity of one decode lookup, and the
failure of a decode. There is no carry, zero, sign or overflow flag (R18, R62).
-/

namespace Sys2Proof.Machine

/-- R18 (a), R72: the validity of one decode-table entry, the output `dec_valid`. -/
def entryValid (e : Option Nibble) : Bool := e.isSome

/-- R18 (b), R160: a group decodes only if none of its 8 fields is invalid. -/
def groupValid (q : Q40) : Bool :=
  entryValid (decRom (fieldOf q 0)) && entryValid (decRom (fieldOf q 1)) && entryValid (decRom (fieldOf q 2)) &&
  entryValid (decRom (fieldOf q 3)) && entryValid (decRom (fieldOf q 4)) && entryValid (decRom (fieldOf q 5)) &&
  entryValid (decRom (fieldOf q 6)) && entryValid (decRom (fieldOf q 7))

end Sys2Proof.Machine
end

