-- ==== Sys2Proof/Machine/Ops.lean ====
section
/-!
DEFINITION. The shared operations over the state: accepting a command, delivering each kind of result, taking the one
exception InvalidCodeWord, reset, the steps of a buffer operation (R134, R145), running one to its `done`, and what the host
reads back (R19, R185).
-/

namespace Sys2Proof.Machine

/-! ### Accepting a command -/

/-- U14: every unit result port at its next free value. -/
def freePorts (k : Nat) : UnitPorts :=
  { encData := Config.freeEncData k, decValid := Config.freeDecValid k, decData := Config.freeDecData k,
    euOut := Config.freeEuOut k, duOk := Config.freeDuOk k, duOut := Config.freeDuOut k }

/-- A command begins: the results of earlier commands stop being results (R19), so there is no `done` and the unit result
ports are unspecified (U14, log 8) until this command writes them. -/
def beginCommand (s : State) : State :=
  { s with done := none, unit := freePorts s.freeIndex, freeIndex := s.freeIndex + 1 }

/-- A command other than reset is refused by a block never reset (R183) and while `busy` (R185 a); otherwise it begins. -/
def accept (s : State) (k : State → Answer) : Answer :=
  if s.constructed then
    if s.busy then .refused .commandWhileBusy else k (beginCommand s)
  else .refused .neverReset

/-! ### Results of the lookups and unit operations -/

/-- R71: `enc_data <- c`; `status <- 0`; done. -/
def deliverEncData (c : CodeWord) (s : State) : State :=
  { s with unit := { s.unit with encData := c }, status := .ok, done := some .encLut }

/-- R72: `dec_valid` and, for a valid entry, `dec_data`; `status <- 0` in both cases (C7); done. An `INVALID` entry leaves
`dec_data` as the command found it, unspecified (U6). -/
def deliverDecEntry (e : Option Nibble) (s : State) : State :=
  { s with unit := { s.unit with decValid := entryValid e, decData := e.getD s.unit.decData },
           status := .ok, done := some .decLut }

/-- R130: `eu_out <- q`; `status <- 0`; done. -/
def deliverEuOut (q : Q40) (s : State) : State :=
  { s with unit := { s.unit with euOut := q }, status := .ok, done := some .encodeUnit }

/-- R140, success: `du_ok <- 1`; `du_out <- x`; `status <- 0`; done. -/
def deliverDuOut (x : G32) (s : State) : State :=
  { s with unit := { s.unit with duOk := true, duOut := x }, status := .ok, done := some .decodeUnit }

/-! ### The one exception -/

/-- R160, R165: taking InvalidCodeWord, the delivery of a failed result. `status <- 1`, the operation is done and the block
idle. For DECODE_UNIT `du_ok <- 0` and `du_out` stays unspecified (U6). For DECODE `out_len <- 0` and OUT becomes
unspecified (D14): it holds no value afterwards (log 10). No group, field or value is recorded, and no claim may depend on
which group failed (R161): the group counter, which R145 does not write here, is left at a free value (log 25). Nothing is
saved, no handler runs, and so there is no return from it (R166). -/
def takeInvalidCodeWord (by_ : Operation) (s : State) : State :=
  match by_ with
  | .decode =>
    { s with status := .invalidCodeWord, outLen := 0, out := [], g := Config.freeGroup s.freeIndex, busy := false,
             done := some .decode }
  | o =>
    { s with status := .invalidCodeWord, unit := { s.unit with duOk := false }, busy := false, done := some o }

/-! ### Reset -/

/-- R70, R22, R180, R182: the reset state. The registers take their reset values, no `done` is pending, IN and OUT are not
touched; but reset while `busy` abandons the operation and leaves OUT unspecified, so without a value (log 10). What the host
drives and will drive stays. -/
def applyReset (s : State) : State :=
  { s with
    constructed := true, busy := false, op := .encode, nIn := 0, g := 0, outLen := 0, status := .ok, done := none,
    unit := UnitPorts.initial, out := if s.busy then [] else s.out }

/-! ### Buffer operations -/

/-- R134, R145, START: `busy <- 1; op; n_in <- in_len; g <- 0; out_len <- 0; status <- 0`. -/
def startBuffer (o : BufferOp) (s : State) : State :=
  { s with busy := true, op := o, nIn := s.inp.inLen, g := 0, outLen := 0, status := .ok }

/-- R134, GROUP: the group's 5 bytes written, `out_len <- out_len + 5; g <- g + 1`. -/
def encodeGroup (x : G32) (s : State) : State :=
  { s with out := s.out.writeBytes (encodeOutAddr s.g) (bytesOfQ (encodeUnit x)),
           outLen := s.outLen + 5, g := s.g + 1 }

/-- R145, GROUP_OK: the group's 4 bytes written, `out_len <- out_len + 4; g <- g + 1`. -/
def decodeGroup (x : G32) (s : State) : State :=
  { s with out := s.out.writeBytes (decodeOutAddr s.g) (bytesOfG x),
           outLen := s.outLen + 4, g := s.g + 1 }

/-- R134, R145, FINISH: `busy <- 0`; done. -/
def finishBuffer (o : Operation) (s : State) : State :=
  { s with busy := false, done := some o }

/-- R134: the enabled step of a busy ENCODE. -/
def encodeStep (s : State) : Answer :=
  if s.g < encodeGroups s.nIn then
    match s.inp.inMem.read4 (encodeInAddr s.g) with
    | some x => .next (encodeGroup x s)
    | none => .fault (.inByteAbsent (encodeInAddr s.g))
  else if s.g = encodeGroups s.nIn then .next (finishBuffer .encode s)
  else .fault .noStepEnabled

/-- R145: the enabled step of a busy DECODE. The failing group of lowest index ends it (R144);
the state it leaves does not hold that index (R161, log 25). -/
def decodeStep (s : State) : Answer :=
  if s.g < decodeGroups s.nIn then
    match s.inp.inMem.read5 (decodeInAddr s.g) with
    | some q =>
      match decodeUnit q with
      | some x => .next (decodeGroup x s)
      | none => .next (takeInvalidCodeWord .decode s)
    | none => .fault (.inByteAbsent (decodeInAddr s.g))
  else if s.g = decodeGroups s.nIn then .next (finishBuffer .decode s)
  else .fault .noStepEnabled

/-- The block's own step while `busy`. -/
def busyStep (s : State) : Answer :=
  match s.op with
  | .encode => encodeStep s
  | .decode => decodeStep s

/-- The block's own steps, one after another, while it is busy: at most `fuel` of them. -/
def runToDone (fuel : Nat) (s : State) : Answer :=
  match fuel with
  | 0 => .next s
  | fuel + 1 =>
    if s.busy then
      match busyStep s with
      | .next t => runToDone fuel t
      | .fault r => .fault r
      | .refused r => .refused r
    else .next s

/-- R134, R145: a buffer command accepted and only started; the block runs on by itself, one group a step. -/
def startOnly (o : BufferOp) (s : State) : Answer :=
  accept s fun t => .next (startBuffer o t)

/-! ### What the host reads (R19, R185 c, d, e): `none` is a read that returns no value -/

/-- `status`: after a `done`, until the next command. -/
def readStatus (s : State) : Option Status := if s.done.isSome then some s.status else none

/-- Whether the latest `done` is that of a buffer operation. -/
def bufferDone (s : State) : Bool := s.done == some .encode || s.done == some .decode

/-- `out_len`: after the `done` of a buffer operation, until the next command. -/
def readOutLen (s : State) : Option Nat := if bufferDone s then some s.outLen else none

/-- `OUT[a]`: after the `done` of a buffer operation with `status = 0`, below `out_len`. -/
def readOut (s : State) (a : Nat) : Option Byte :=
  if bufferDone s && s.status == .ok && decide (a < s.outLen) then s.out.read a else none

/-- `enc_data`: after the `done` of a lookup in the encode table. -/
def readEncData (s : State) : Option CodeWord := if s.done == some .encLut then some s.unit.encData else none

/-- `dec_valid`: after the `done` of a lookup in the decode table. -/
def readDecValid (s : State) : Option Bool := if s.done == some .decLut then some s.unit.decValid else none

/-- `dec_data`: after the `done` of a lookup in the decode table, when `dec_valid = 1`. -/
def readDecData (s : State) : Option Nibble :=
  if s.done == some .decLut && s.unit.decValid then some s.unit.decData else none

/-- `eu_out`: after the `done` of ENCODE_UNIT. -/
def readEuOut (s : State) : Option Q40 := if s.done == some .encodeUnit then some s.unit.euOut else none

/-- `du_ok`: after the `done` of DECODE_UNIT. -/
def readDuOk (s : State) : Option Bool := if s.done == some .decodeUnit then some s.unit.duOk else none

/-- `du_out`: after the `done` of DECODE_UNIT, when `du_ok = 1`. -/
def readDuOut (s : State) : Option G32 :=
  if s.done == some .decodeUnit && s.unit.duOk then some s.unit.duOut else none

end Sys2Proof.Machine
end

