-- ==== Sys2Proof/Machine/BufferOps.lean ====
section
/-!
DEFINITION. The buffer operations ENCODE and DECODE as one event each, the normative reading (D1, C4): started and run to
`done`. The same steps one at a time are `startOnly` and `busyStep` (R134, R145).
-/

namespace Sys2Proof.Machine

/-- ENCODE (R132): all `floor(in_len/4)` groups of IN in order, then `done`. Never fails; the last 0 to 3 bytes are not read. -/
def execEncode (s : State) : Answer :=
  accept s fun t => runToDone (encodeGroups t.inp.inLen + 1) (startBuffer .encode t)

/-- DECODE (R142, R143): all `floor(in_len/5)` groups of IN in order, then `done`; the first group with an invalid code word
ends it with InvalidCodeWord. The last 0 to 4 bytes are not read. -/
def execDecode (s : State) : Answer :=
  accept s fun t => runToDone (decodeGroups t.inp.inLen + 1) (startBuffer .decode t)

end Sys2Proof.Machine
end

