-- ==== Sys2Proof/Machine/RomRows.lean ====
section
/-!
DEFINITION. The ROM rows of the opcode table (R75 to R122): the lookup of one entry, with the result and flags of ENC_LUT
(R71) or DEC_LUT (R72) at that index. The index is the row's own; the address ports are not read (log 2).
-/

namespace Sys2Proof.Machine

/-- One read of `ENC_ROM[n]`, delivered as ENC_LUT delivers it (R71). -/
def lookEnc (n : Nibble) (s : State) : Answer :=
  accept s fun t => .next (deliverEncData (encRom n) t)

/-- One read of `DEC_ROM[v]`, delivered as DEC_LUT delivers it (R72). -/
def lookDec (v : CodeWord) (s : State) : Answer :=
  accept s fun t => .next (deliverDecEntry (decRom v) t)

/-- `ENC_ROM[0x0]` (R75). -/
def execEncRom0 (s : State) : Answer := lookEnc 0b0000#4 s

/-- `ENC_ROM[0x1]` (R76). -/
def execEncRom1 (s : State) : Answer := lookEnc 0b0001#4 s

/-- `ENC_ROM[0x2]` (R77). -/
def execEncRom2 (s : State) : Answer := lookEnc 0b0010#4 s

/-- `ENC_ROM[0x3]` (R78). -/
def execEncRom3 (s : State) : Answer := lookEnc 0b0011#4 s

/-- `ENC_ROM[0x4]` (R79). -/
def execEncRom4 (s : State) : Answer := lookEnc 0b0100#4 s

/-- `ENC_ROM[0x5]` (R80). -/
def execEncRom5 (s : State) : Answer := lookEnc 0b0101#4 s

/-- `ENC_ROM[0x6]` (R81). -/
def execEncRom6 (s : State) : Answer := lookEnc 0b0110#4 s

/-- `ENC_ROM[0x7]` (R82). -/
def execEncRom7 (s : State) : Answer := lookEnc 0b0111#4 s

/-- `ENC_ROM[0x8]` (R83). -/
def execEncRom8 (s : State) : Answer := lookEnc 0b1000#4 s

/-- `ENC_ROM[0x9]` (R84). -/
def execEncRom9 (s : State) : Answer := lookEnc 0b1001#4 s

/-- `ENC_ROM[0xA]` (R85). -/
def execEncRomA (s : State) : Answer := lookEnc 0b1010#4 s

/-- `ENC_ROM[0xB]` (R86). -/
def execEncRomB (s : State) : Answer := lookEnc 0b1011#4 s

/-- `ENC_ROM[0xC]` (R87). -/
def execEncRomC (s : State) : Answer := lookEnc 0b1100#4 s

/-- `ENC_ROM[0xD]` (R88). -/
def execEncRomD (s : State) : Answer := lookEnc 0b1101#4 s

/-- `ENC_ROM[0xE]` (R89). -/
def execEncRomE (s : State) : Answer := lookEnc 0b1110#4 s

/-- `ENC_ROM[0xF]` (R90). -/
def execEncRomF (s : State) : Answer := lookEnc 0b1111#4 s

/-- `DEC_ROM[0b00000]` (R91). -/
def execDecRom00 (s : State) : Answer := lookDec 0b00000#5 s

/-- `DEC_ROM[0b00001]` (R92). -/
def execDecRom01 (s : State) : Answer := lookDec 0b00001#5 s

/-- `DEC_ROM[0b00010]` (R93). -/
def execDecRom02 (s : State) : Answer := lookDec 0b00010#5 s

/-- `DEC_ROM[0b00011]` (R94). -/
def execDecRom03 (s : State) : Answer := lookDec 0b00011#5 s

/-- `DEC_ROM[0b00100]` (R95). -/
def execDecRom04 (s : State) : Answer := lookDec 0b00100#5 s

/-- `DEC_ROM[0b00101]` (R96). -/
def execDecRom05 (s : State) : Answer := lookDec 0b00101#5 s

/-- `DEC_ROM[0b00110]` (R97). -/
def execDecRom06 (s : State) : Answer := lookDec 0b00110#5 s

/-- `DEC_ROM[0b00111]` (R98). -/
def execDecRom07 (s : State) : Answer := lookDec 0b00111#5 s

/-- `DEC_ROM[0b01000]` (R99). -/
def execDecRom08 (s : State) : Answer := lookDec 0b01000#5 s

/-- `DEC_ROM[0b01001]` (R100). -/
def execDecRom09 (s : State) : Answer := lookDec 0b01001#5 s

/-- `DEC_ROM[0b01010]` (R101). -/
def execDecRom0A (s : State) : Answer := lookDec 0b01010#5 s

/-- `DEC_ROM[0b01011]` (R102). -/
def execDecRom0B (s : State) : Answer := lookDec 0b01011#5 s

/-- `DEC_ROM[0b01100]` (R103). -/
def execDecRom0C (s : State) : Answer := lookDec 0b01100#5 s

/-- `DEC_ROM[0b01101]` (R104). -/
def execDecRom0D (s : State) : Answer := lookDec 0b01101#5 s

/-- `DEC_ROM[0b01110]` (R105). -/
def execDecRom0E (s : State) : Answer := lookDec 0b01110#5 s

/-- `DEC_ROM[0b01111]` (R106). -/
def execDecRom0F (s : State) : Answer := lookDec 0b01111#5 s

/-- `DEC_ROM[0b10000]` (R107). -/
def execDecRom10 (s : State) : Answer := lookDec 0b10000#5 s

/-- `DEC_ROM[0b10001]` (R108). -/
def execDecRom11 (s : State) : Answer := lookDec 0b10001#5 s

/-- `DEC_ROM[0b10010]` (R109). -/
def execDecRom12 (s : State) : Answer := lookDec 0b10010#5 s

/-- `DEC_ROM[0b10011]` (R110). -/
def execDecRom13 (s : State) : Answer := lookDec 0b10011#5 s

/-- `DEC_ROM[0b10100]` (R111). -/
def execDecRom14 (s : State) : Answer := lookDec 0b10100#5 s

/-- `DEC_ROM[0b10101]` (R112). -/
def execDecRom15 (s : State) : Answer := lookDec 0b10101#5 s

/-- `DEC_ROM[0b10110]` (R113). -/
def execDecRom16 (s : State) : Answer := lookDec 0b10110#5 s

/-- `DEC_ROM[0b10111]` (R114). -/
def execDecRom17 (s : State) : Answer := lookDec 0b10111#5 s

/-- `DEC_ROM[0b11000]` (R115). -/
def execDecRom18 (s : State) : Answer := lookDec 0b11000#5 s

/-- `DEC_ROM[0b11001]` (R116). -/
def execDecRom19 (s : State) : Answer := lookDec 0b11001#5 s

/-- `DEC_ROM[0b11010]` (R117). -/
def execDecRom1A (s : State) : Answer := lookDec 0b11010#5 s

/-- `DEC_ROM[0b11011]` (R118). -/
def execDecRom1B (s : State) : Answer := lookDec 0b11011#5 s

/-- `DEC_ROM[0b11100]` (R119). -/
def execDecRom1C (s : State) : Answer := lookDec 0b11100#5 s

/-- `DEC_ROM[0b11101]` (R120). -/
def execDecRom1D (s : State) : Answer := lookDec 0b11101#5 s

/-- `DEC_ROM[0b11110]` (R121). -/
def execDecRom1E (s : State) : Answer := lookDec 0b11110#5 s

/-- `DEC_ROM[0b11111]` (R122). -/
def execDecRom1F (s : State) : Answer := lookDec 0b11111#5 s

end Sys2Proof.Machine
end

