-- ==== Sys2Proof/Machine/SystemOps.lean ====
section
/-!
DEFINITION. The system operations (R168): CONSTRUCT, NOP, and the reserved command.
-/

namespace Sys2Proof.Machine

/-- CONSTRUCT (R70, R180, R182): never fails; allowed at any time, also before the first reset and while `busy`. -/
def execConstruct (s : State) : Answer := .next (applyReset s)

/-- NOP (R170): no register, port, buffer or ROM is read or written, and there is no `done`. -/
def execNop (s : State) : Answer := .next s

/-- `cmd = 0b111` (R59, D4, U9): refused: no step, no `done`, no state change. -/
def execReserved (_s : State) : Answer := .refused .reservedCommand

end Sys2Proof.Machine
end

