-- ==== Sys2Proof/Machine/UnitOps.lean ====
section
/-!
DEFINITION. The unit operations ENCODE_UNIT and DECODE_UNIT and the lookups ENC_LUT and DEC_LUT, their operands on the ports.
-/

namespace Sys2Proof.Machine

/-- ENCODE_UNIT (R130): `eu_out <- encode_unit(eu_in)`. -/
def execEncodeUnit (s : State) : Answer :=
  accept s fun t => .next (deliverEuOut (encodeUnit t.inp.euIn) t)

/-- DECODE_UNIT (R140): `du_out <- decode_unit(du_in)`, or InvalidCodeWord. -/
def execDecodeUnit (s : State) : Answer :=
  accept s fun t =>
    match decodeUnit t.inp.duIn with
    | some x => .next (deliverDuOut x t)
    | none => .next (takeInvalidCodeWord .decodeUnit t)

/-- ENC_LUT (R71): `enc_data <- ENC_ROM[enc_addr]`. -/
def execEncLut (s : State) : Answer :=
  accept s fun t => .next (deliverEncData (encRom t.inp.encAddr) t)

/-- DEC_LUT (R72): `DEC_ROM[dec_addr]`; an `INVALID` entry is a value, not a failure. -/
def execDecLut (s : State) : Answer :=
  accept s fun t => .next (deliverDecEntry (decRom t.inp.decAddr) t)

end Sys2Proof.Machine
end

