-- ==== Sys2Proof/Machine/Dispatch.lean ====
section
/-!
DEFINITION. exec: one arm per constructor of `Instr`, each one direct call of that row's meaning.
-/

namespace Sys2Proof.Machine

def exec (i : Instr) (s : State) : Host.Outcome State Fault Refusal :=
  match i with
  | .construct => Sys2Proof.Machine.execConstruct s
  | .nop => Sys2Proof.Machine.execNop s
  | .encode => Sys2Proof.Machine.execEncode s
  | .decode => Sys2Proof.Machine.execDecode s
  | .encodeUnit => Sys2Proof.Machine.execEncodeUnit s
  | .decodeUnit => Sys2Proof.Machine.execDecodeUnit s
  | .encLut => Sys2Proof.Machine.execEncLut s
  | .decLut => Sys2Proof.Machine.execDecLut s
  | .reserved => Sys2Proof.Machine.execReserved s
  | .encRom0 => Sys2Proof.Machine.execEncRom0 s
  | .encRom1 => Sys2Proof.Machine.execEncRom1 s
  | .encRom2 => Sys2Proof.Machine.execEncRom2 s
  | .encRom3 => Sys2Proof.Machine.execEncRom3 s
  | .encRom4 => Sys2Proof.Machine.execEncRom4 s
  | .encRom5 => Sys2Proof.Machine.execEncRom5 s
  | .encRom6 => Sys2Proof.Machine.execEncRom6 s
  | .encRom7 => Sys2Proof.Machine.execEncRom7 s
  | .encRom8 => Sys2Proof.Machine.execEncRom8 s
  | .encRom9 => Sys2Proof.Machine.execEncRom9 s
  | .encRomA => Sys2Proof.Machine.execEncRomA s
  | .encRomB => Sys2Proof.Machine.execEncRomB s
  | .encRomC => Sys2Proof.Machine.execEncRomC s
  | .encRomD => Sys2Proof.Machine.execEncRomD s
  | .encRomE => Sys2Proof.Machine.execEncRomE s
  | .encRomF => Sys2Proof.Machine.execEncRomF s
  | .decRom00 => Sys2Proof.Machine.execDecRom00 s
  | .decRom01 => Sys2Proof.Machine.execDecRom01 s
  | .decRom02 => Sys2Proof.Machine.execDecRom02 s
  | .decRom03 => Sys2Proof.Machine.execDecRom03 s
  | .decRom04 => Sys2Proof.Machine.execDecRom04 s
  | .decRom05 => Sys2Proof.Machine.execDecRom05 s
  | .decRom06 => Sys2Proof.Machine.execDecRom06 s
  | .decRom07 => Sys2Proof.Machine.execDecRom07 s
  | .decRom08 => Sys2Proof.Machine.execDecRom08 s
  | .decRom09 => Sys2Proof.Machine.execDecRom09 s
  | .decRom0A => Sys2Proof.Machine.execDecRom0A s
  | .decRom0B => Sys2Proof.Machine.execDecRom0B s
  | .decRom0C => Sys2Proof.Machine.execDecRom0C s
  | .decRom0D => Sys2Proof.Machine.execDecRom0D s
  | .decRom0E => Sys2Proof.Machine.execDecRom0E s
  | .decRom0F => Sys2Proof.Machine.execDecRom0F s
  | .decRom10 => Sys2Proof.Machine.execDecRom10 s
  | .decRom11 => Sys2Proof.Machine.execDecRom11 s
  | .decRom12 => Sys2Proof.Machine.execDecRom12 s
  | .decRom13 => Sys2Proof.Machine.execDecRom13 s
  | .decRom14 => Sys2Proof.Machine.execDecRom14 s
  | .decRom15 => Sys2Proof.Machine.execDecRom15 s
  | .decRom16 => Sys2Proof.Machine.execDecRom16 s
  | .decRom17 => Sys2Proof.Machine.execDecRom17 s
  | .decRom18 => Sys2Proof.Machine.execDecRom18 s
  | .decRom19 => Sys2Proof.Machine.execDecRom19 s
  | .decRom1A => Sys2Proof.Machine.execDecRom1A s
  | .decRom1B => Sys2Proof.Machine.execDecRom1B s
  | .decRom1C => Sys2Proof.Machine.execDecRom1C s
  | .decRom1D => Sys2Proof.Machine.execDecRom1D s
  | .decRom1E => Sys2Proof.Machine.execDecRom1E s
  | .decRom1F => Sys2Proof.Machine.execDecRom1F s

end Sys2Proof.Machine
end

