-- ==== Sys2Proof/Machine/Fetch.lean ====
section
/-!
DEFINITION. What the block meets at its ports on one step: the host's next presentation (or idle ports), driven on the
ports, and its selector byte read and decoded (R58, R180, R181, R185, R186).
-/

namespace Sys2Proof.Machine

/-- R170, R186 (H6): the ports when the host presents nothing: no command, the operands held. -/
def idlePresentation (s : State) : Presentation :=
  { inp := { s.inp with sel := idleSelector }, atOnce := true, stepwise := false }

/-- The presentation of this step and the host moves left after it. The host waits for `done` before its next move (R46,
R185 a), unless that move says `atOnce`. With no move to make, the ports are idle (R181). -/
def nextPresentation (s : State) : Presentation × List Presentation :=
  match s.host with
  | [] => (idlePresentation s, [])
  | p :: rest => if s.busy && !p.atOnce then (idlePresentation s, p :: rest) else (p, rest)

/-- The state with this step's presentation on the ports. -/
def present (s : State) : State :=
  { s with inp := (nextPresentation s).1.inp, host := (nextPresentation s).2 }

/-- R185 (b): the host has not changed IN or `in_len`. The whole list of IN is compared, also what it holds at or above
`in_len`, although R30 makes IN `in_len` bytes: DESIGN CHOICE (log 28), safe, the model refuses more moves. -/
def inputHeld (old new : Inputs) : Bool :=
  decide (new.inLen = old.inLen) && decide (new.inMem = old.inMem)

/-- What one step does: run an instruction, start a buffer operation to be run group by group, let a busy block go on by
itself, or refuse. -/
inductive Fetched where
  | run (i : Instr) (s : State)
  | start (o : BufferOp) (s : State)
  | goOn (s : State)
  | refuse (r : Refusal)
  deriving DecidableEq, Repr

/-- Reading the ports once. `cmd` is sampled when the block is idle (R58); on a busy block NOP lets the running operation go
on, if the host has held its operands (R185 b), and any command but reset is refused by its meaning (R185 a). Reset abandons
the running operation, which then has no `done` (R182); the duty to hold IN and `in_len` is taken to end with it, so the
presentation that resets may itself carry other operands: DESIGN CHOICE (log 26), safe. -/
def fetch (s : State) : Fetched :=
  let p := (nextPresentation s).1
  let t := present s
  match decodeWord p.inp.sel with
  | none => .refuse (.unknownSelector p.inp.sel)
  | some .nop =>
    if s.busy then
      if inputHeld s.inp p.inp then .goOn t else .refuse .inputChangedWhileBusy
    else .run .nop t
  | some .encode => if p.stepwise then .start .encode t else .run .encode t
  | some .decode => if p.stepwise then .start .decode t else .run .decode t
  | some i => .run i t

end Sys2Proof.Machine
end

