-- ==== Sys2Proof/Machine/Step.lean ====
section
/-!
DEFINITION. One step of the block, and the host move that presents one given instruction next.
-/

namespace Sys2Proof.Machine

/-- One step: what the ports ask for (`fetch`), done. -/
def step (s : State) : Host.Outcome State Fault Refusal :=
  match fetch s with
  | .run i t => exec i t
  | .start o t => startOnly o t
  | .goOn t => busyStep t
  | .refuse r => .refused r

/-- The state whose next step runs the instruction with these bits: the host's next move presents that selector byte, with
the operands now on the ports, to an idle block that has been reset. -/
def State.withFetchWord (s : State) (nbits w : Nat) : State :=
  { s with
    constructed := true, busy := false,
    host := { inp := { s.inp with sel := layoutWord nbits w }, atOnce := true, stepwise := false } :: s.host }

end Sys2Proof.Machine
end

