-- ==== Sys2Proof/Safety.lean ====
section
/-!
DEFINITION. What counts as a safe run, and the invariants, in the terms the statements use: the host's duties (R185, R186),
an answer that is a next state, and what holds of a busy block (R134, R145) and of the outputs (R18, R165) in every state a
run reaches.
-/

namespace Sys2Proof.Machine

/-- The step went on: neither a fault nor a refusal. -/
def goesOn : Host.Outcome State Fault Refusal → Bool
  | .next _ => true
  | _ => false

/-- R58: the block can take a command: it has been reset (R183) and is not busy. -/
def State.ready (s : State) : Prop := s.constructed = true ∧ s.busy = false

/-- R30 (a): IN holds a byte at every address below `in_len`. -/
def State.inputComplete (s : State) : Prop := ∀ a, a < s.inp.inLen → (s.inp.inMem.read a).isSome

/-- R185 (a), (b), (f), (g), R186: this step's presentation keeps the host's duties: its selector is an operation of the
block other than the reserved one, IN holds all of `in_len` bytes for a buffer operation, a block never reset gets only reset or nothing, and a
busy block gets reset, with any operands (log 26), or nothing with its operands held (log 28). -/
def State.hostDutiful (s : State) : Prop :=
  ∃ i, decodeWord (nextPresentation s).1.inp.sel = some i ∧ i.wellFormed = true ∧
    (i = .encode ∨ i = .decode ∨ s.busy = true → (present s).inputComplete) ∧
    (s.constructed = false → i = .construct ∨ i = .nop) ∧
    (s.busy = true → i = .construct ∨ (i = .nop ∧ inputHeld s.inp (nextPresentation s).1.inp = true))

/-- The canonical form of IN, of OUT, and of every IN the host will present. -/
def State.memoryOk (s : State) : Prop :=
  s.out.wf = true ∧ s.inp.inMem.wf = true ∧ ∀ p, p ∈ s.host → p.inp.inMem.wf = true

/-- R134, R145: what holds of a busy block after every step: the latched length is the port's, no group is past the last,
`status = 0`, there is no `done`, and OUT holds exactly the result for the groups processed. -/
def State.busyOk (s : State) : Prop :=
  s.busy = true →
    s.constructed = true ∧ s.nIn = s.inp.inLen ∧ s.status = .ok ∧ s.done = none ∧
    match s.op with
    | .encode =>
      s.g ≤ encodeGroups s.nIn ∧ s.outLen = 5 * s.g ∧
      ∃ bs, s.inp.inMem.slice 0 (4 * s.g) = some bs ∧ s.out.slice 0 s.outLen = some (encodeBytes bs)
    | .decode =>
      s.g ≤ decodeGroups s.nIn ∧ s.outLen = 4 * s.g ∧
      ∃ bs ys, s.inp.inMem.slice 0 (5 * s.g) = some bs ∧ decodeBytes bs = some ys ∧
        s.out.slice 0 s.outLen = some ys

/-- R18, R165: `status` is 1 only as the result of a failed DECODE, which leaves `out_len = 0`, or of a failed DECODE_UNIT,
which leaves `du_ok = 0`; and after any other `done` it is 0. A block with a `done` is idle. -/
def State.statusOk (s : State) : Prop :=
  (s.done.isSome = true → s.busy = false) ∧
  (s.status = .invalidCodeWord →
    (s.done = some .decode ∧ s.outLen = 0) ∨ (s.done = some .decodeUnit ∧ s.unit.duOk = false)) ∧
  (s.done = some .decodeUnit → (s.unit.duOk = true ↔ s.status = .ok))

/-- The host reads the same results from both states (R19, R57). -/
def State.sameResults (s t : State) : Prop :=
  readStatus s = readStatus t ∧ readOutLen s = readOutLen t ∧ (∀ a, readOut s a = readOut t a) ∧
    readEncData s = readEncData t ∧ readDecValid s = readDecValid t ∧ readDecData s = readDecData t ∧
    readEuOut s = readEuOut t ∧ readDuOk s = readDuOk t ∧ readDuOut s = readDuOut t

end Sys2Proof.Machine
end

