-- ==== Sys2Proof/Certificates/Slice0/Obligations.lean ====
section
/-!
DEFINITION. The statements for the provers. Each docstring says which rules of the spec the statement rests on; the free
values (`freePorts`, log 8; `Config.freeGroup`, log 25) are unconstrained, so every statement holds for each of them.
-/

open Sys2Proof Sys2Proof.Machine

/-- Decoding the byte the encoder writes gives the instruction back, and the bytes after it. Rests on: opcode_table.json, 30_encoding.md section 4 (R58). The model's choice: the format tags of the table rows are log 3. -/
def Obligations.EncodedInstructionDecodesBack : Prop :=
  ∀ (i : Instr) (rest : List Byte),
    decode (encode i ++ rest) = .ok (i, rest) ∧ decodeTableWord 8 (encodeWord i).toNat = some i

/-- A byte the decoder accepts carries the fixed bits of its instruction's row in the opcode table. Rests on: opcode_table.json, R58, 40_code_table.md sections 5 and 6. The model's choice: which words are read as which format is log 3. -/
def Obligations.DecodedWordHasItsRowsBits : Prop :=
  ∀ (w : Byte) (i : Instr), decodeWord w = some i → w.toNat &&& (tableRow i).1 = (tableRow i).2

/-- The selector words of the operation map decode to their operations; cmd is ignored while rst = 1. Rests on: 30_encoding.md section 4 (R58), 70_reset_and_hazards.md section 1 (R180). -/
def Obligations.CommandWordsDecode : Prop :=
  decodeTableWord 8 0b0000 = some .nop ∧ decodeTableWord 8 0b0001 = some .encode ∧
  decodeTableWord 8 0b0010 = some .decode ∧ decodeTableWord 8 0b0011 = some .encodeUnit ∧
  decodeTableWord 8 0b0100 = some .decodeUnit ∧ decodeTableWord 8 0b0101 = some .encLut ∧
  decodeTableWord 8 0b0110 = some .decLut ∧ decodeTableWord 8 0b0111 = some .reserved ∧
  ∀ c : BitVec 3, decodeWord (0b00001#5 ++ c) = some .construct

/-- A step runs the instruction whose selector byte the host presents, on the state with that presentation on the ports. Rests on: 30_encoding.md section 4 (R58), 95_test_vectors.md section 6. The model's choice: the host's moves as data, and the wait for done, are log 4. -/
def Obligations.StepRunsTheDecodedInstruction : Prop :=
  ∀ (s : State) (i : Instr),
    decodeWord (nextPresentation s).1.inp.sel = some i →
    (s.busy = false ∨ i ≠ .nop) →
    ((nextPresentation s).1.stepwise = false ∨ (i ≠ .encode ∧ i ≠ .decode)) →
    step s = exec i { s with inp := (nextPresentation s).1.inp, host := (nextPresentation s).2 }

/-- What a step does where it runs no instruction: start group by group, go on while busy, or refuse the host move. Rests on: 41_encoder.md section 3 (R134), 42_decoder.md section 3 (R145), 70_reset_and_hazards.md section 3 (R185). The model's choice: the host's moves as data are log 4, running group by group is log 5, the refusals are logs 3, 14 and 28. -/
def Obligations.StepWhereNoInstructionRuns : Prop :=
  ∀ s : State,
    (decodeWord (nextPresentation s).1.inp.sel = some .encode → (nextPresentation s).1.stepwise = true →
      step s = startOnly .encode (present s)) ∧
    (decodeWord (nextPresentation s).1.inp.sel = some .decode → (nextPresentation s).1.stepwise = true →
      step s = startOnly .decode (present s)) ∧
    (decodeWord (nextPresentation s).1.inp.sel = some .nop → s.busy = true →
      (nextPresentation s).1.inp.inLen = s.inp.inLen → (nextPresentation s).1.inp.inMem = s.inp.inMem →
      step s = busyStep (present s)) ∧
    (decodeWord (nextPresentation s).1.inp.sel = some .nop → s.busy = true →
      ((nextPresentation s).1.inp.inLen ≠ s.inp.inLen ∨ (nextPresentation s).1.inp.inMem ≠ s.inp.inMem) →
      step s = .refused .inputChangedWhileBusy) ∧
    (decodeWord (nextPresentation s).1.inp.sel = none →
      step s = .refused (.unknownSelector (nextPresentation s).1.inp.sel))

/-- After withFetchWord, the next step runs exactly the instruction of that table word. Rests on: 30_encoding.md section 4 (R58), 95_test_vectors.md section 6. The model's choice: the host's moves as data and withFetchWord are log 4. -/
def Obligations.FetchWordRunsNext : Prop :=
  ∀ (s : State) (nbits w : Nat) (i : Instr),
    decodeTableWord nbits w = some i →
    step (s.withFetchWord nbits w) =
      exec i { s with constructed := true, busy := false, inp := { s.inp with sel := layoutWord nbits w } }

/-- The encode-table entries of nibbles 0 to 7, each the code word at its place of the source's list. Formalises: R75, R76, R77, R78, R79, R80, R81, R82. -/
def Obligations.EncodeTableRowsZeroToSeven : Prop :=
  ∀ r ∈ ([(0b0000#4, 0b01010#5),
       (0b0001#4, 0b01011#5),
       (0b0010#4, 0b10010#5),
       (0b0011#4, 0b10011#5),
       (0b0100#4, 0b01110#5),
       (0b0101#4, 0b01111#5),
       (0b0110#4, 0b10110#5),
       (0b0111#4, 0b10111#5)] :
      List (Nibble × CodeWord)),
    encRom r.1 = r.2 ∧ codeWords[r.1.toNat]? = some r.2

/-- The encode-table entries of nibbles 8 to 15, each the code word at its place of the source's list. Formalises: R83, R84, R85, R86, R87, R88, R89, R90. -/
def Obligations.EncodeTableRowsEightToFifteen : Prop :=
  ∀ r ∈ ([(0b1000#4, 0b01001#5),
       (0b1001#4, 0b11001#5),
       (0b1010#4, 0b11010#5),
       (0b1011#4, 0b11011#5),
       (0b1100#4, 0b01101#5),
       (0b1101#4, 0b11101#5),
       (0b1110#4, 0b11110#5),
       (0b1111#4, 0b10101#5)] :
      List (Nibble × CodeWord)),
    encRom r.1 = r.2 ∧ codeWords[r.1.toNat]? = some r.2

/-- The decode-table entries of indices 0 to 10, each with its tag, its nibble and its image. Formalises: R91, R92, R93, R94, R95, R96, R97, R98, R99, R100, R101. -/
def Obligations.DecodeTableRowsZeroToTen : Prop :=
  ∀ r ∈ ([(0b00000#5, none, 0b00000#5),
       (0b00001#5, none, 0b00000#5),
       (0b00010#5, none, 0b00000#5),
       (0b00011#5, none, 0b00000#5),
       (0b00100#5, none, 0b00000#5),
       (0b00101#5, none, 0b00000#5),
       (0b00110#5, none, 0b00000#5),
       (0b00111#5, none, 0b00000#5),
       (0b01000#5, none, 0b00000#5),
       (0b01001#5, some 0x8#4, 0b11000#5),
       (0b01010#5, some 0x0#4, 0b10000#5)] :
      List (CodeWord × Option Nibble × BitVec 5)),
    decRom r.1 = r.2.1 ∧ decImage r.2.1 = r.2.2 ∧
    (∀ n : Nibble, r.2.1 = some n → codeWords[n.toNat]? = some r.1) ∧
    (r.2.1 = none → r.1 ∉ codeWords)

/-- The decode-table entries of indices 11 to 21, each with its tag, its nibble and its image. Formalises: R102, R103, R104, R105, R106, R107, R108, R109, R110, R111, R112. -/
def Obligations.DecodeTableRowsElevenToTwentyOne : Prop :=
  ∀ r ∈ ([(0b01011#5, some 0x1#4, 0b10001#5),
       (0b01100#5, none, 0b00000#5),
       (0b01101#5, some 0xC#4, 0b11100#5),
       (0b01110#5, some 0x4#4, 0b10100#5),
       (0b01111#5, some 0x5#4, 0b10101#5),
       (0b10000#5, none, 0b00000#5),
       (0b10001#5, none, 0b00000#5),
       (0b10010#5, some 0x2#4, 0b10010#5),
       (0b10011#5, some 0x3#4, 0b10011#5),
       (0b10100#5, none, 0b00000#5),
       (0b10101#5, some 0xF#4, 0b11111#5)] :
      List (CodeWord × Option Nibble × BitVec 5)),
    decRom r.1 = r.2.1 ∧ decImage r.2.1 = r.2.2 ∧
    (∀ n : Nibble, r.2.1 = some n → codeWords[n.toNat]? = some r.1) ∧
    (r.2.1 = none → r.1 ∉ codeWords)

/-- The decode-table entries of indices 22 to 31, each with its tag, its nibble and its image. Formalises: R113, R114, R115, R116, R117, R118, R119, R120, R121, R122. -/
def Obligations.DecodeTableRowsTwentyTwoToThirtyOne : Prop :=
  ∀ r ∈ ([(0b10110#5, some 0x6#4, 0b10110#5),
       (0b10111#5, some 0x7#4, 0b10111#5),
       (0b11000#5, none, 0b00000#5),
       (0b11001#5, some 0x9#4, 0b11001#5),
       (0b11010#5, some 0xA#4, 0b11010#5),
       (0b11011#5, some 0xB#4, 0b11011#5),
       (0b11100#5, none, 0b00000#5),
       (0b11101#5, some 0xD#4, 0b11101#5),
       (0b11110#5, some 0xE#4, 0b11110#5),
       (0b11111#5, none, 0b00000#5)] :
      List (CodeWord × Option Nibble × BitVec 5)),
    decRom r.1 = r.2.1 ∧ decImage r.2.1 = r.2.2 ∧
    (∀ n : Nibble, r.2.1 = some n → codeWords[n.toNat]? = some r.1) ∧
    (r.2.1 = none → r.1 ∉ codeWords)

/-- Each of the 48 table rows completes as the lookup of its entry, with the effects of ENC_LUT or DEC_LUT. Rests on: 40_code_table.md sections 2, 3, 5 and 6 (R71, R72, R75 to R122), opcode_table.json. The model's choice: that a table row is run as a lookup is log 2; the free ports are log 8, done held is log 12. -/
def Obligations.TableRowsCompleteAsLookups : Prop :=
  (∀ r ∈ ([(.encRom0, 0b0000#4), (.encRom1, 0b0001#4), (.encRom2, 0b0010#4), (.encRom3, 0b0011#4),
        (.encRom4, 0b0100#4), (.encRom5, 0b0101#4), (.encRom6, 0b0110#4), (.encRom7, 0b0111#4),
        (.encRom8, 0b1000#4), (.encRom9, 0b1001#4), (.encRomA, 0b1010#4), (.encRomB, 0b1011#4),
        (.encRomC, 0b1100#4), (.encRomD, 0b1101#4), (.encRomE, 0b1110#4), (.encRomF, 0b1111#4)] :
      List (Instr × Nibble)),
    ∀ s : State, s.ready →
      exec r.1 s = .next
        { s with unit := { freePorts s.freeIndex with encData := encRom r.2 }, status := .ok, done := some .encLut,
                  freeIndex := s.freeIndex + 1 }) ∧
  (∀ r ∈ ([(.decRom00, 0b00000#5), (.decRom01, 0b00001#5), (.decRom02, 0b00010#5), (.decRom03, 0b00011#5),
        (.decRom04, 0b00100#5), (.decRom05, 0b00101#5), (.decRom06, 0b00110#5), (.decRom07, 0b00111#5),
        (.decRom08, 0b01000#5), (.decRom09, 0b01001#5), (.decRom0A, 0b01010#5), (.decRom0B, 0b01011#5),
        (.decRom0C, 0b01100#5), (.decRom0D, 0b01101#5), (.decRom0E, 0b01110#5), (.decRom0F, 0b01111#5),
        (.decRom10, 0b10000#5), (.decRom11, 0b10001#5), (.decRom12, 0b10010#5), (.decRom13, 0b10011#5),
        (.decRom14, 0b10100#5), (.decRom15, 0b10101#5), (.decRom16, 0b10110#5), (.decRom17, 0b10111#5),
        (.decRom18, 0b11000#5), (.decRom19, 0b11001#5), (.decRom1A, 0b11010#5), (.decRom1B, 0b11011#5),
        (.decRom1C, 0b11100#5), (.decRom1D, 0b11101#5), (.decRom1E, 0b11110#5), (.decRom1F, 0b11111#5)] :
      List (Instr × CodeWord)),
    ∀ s : State, s.ready →
      exec r.1 s = .next
        { s with unit := { freePorts s.freeIndex with
                            decValid := (decRom r.2).isSome,
                            decData := (decRom r.2).getD (Config.freeDecData s.freeIndex) },
                  status := .ok, done := some .decLut, freeIndex := s.freeIndex + 1 })

/-- The decode table inverts the encode table, and is INVALID on every value that is no code word. Formalises: R12. -/
def Obligations.DecodeTableInvertsEncodeTable : Prop :=
  (∀ n : Nibble, decRom (encRom n) = some n) ∧
  (∀ (v : CodeWord) (n : Nibble), decRom v = some n → encRom n = v) ∧
  (∀ v : CodeWord, v ∉ codeWords → decRom v = none)

/-- Exactly the 16 listed values are INVALID; the encode table is injective. Rests on: 40_code_table.md section 4 (R74), 30_encoding.md section 5 (R60). -/
def Obligations.InvalidEntriesAreTheSixteen : Prop :=
  (∀ (v : CodeWord) (n : Nibble), decRom v = some n ↔ v = encRom n) ∧
  (∀ v : CodeWord, decRom v = none ↔ v ∈ invalidWords) ∧ invalidWords.length = 16 ∧ invalidWords.Nodup ∧
  (∀ n m : Nibble, encRom n = encRom m → n = m)

/-- The construction from the mapping-pair list gives exactly the two tables. Rests on: 40_code_table.md sections 1 and 4 (R70, R73), R61. -/
def Obligations.ConstructionGivesTheTables : Prop :=
  codeWords.length = 16 ∧ codeWords.Nodup ∧
  (∀ n : Nibble, builtEnc n = encRom n) ∧ (∀ v : CodeWord, builtDec v = decRom v)

/-- ENC_LUT completes with enc_data = ENC_ROM[enc_addr]. Rests on: 40_code_table.md section 2 (R71). The model's choice: the free ports are log 8, done held is log 12. -/
def Obligations.EncLutReadsTheEncodeTable : Prop :=
  ∀ s : State, s.ready →
    exec .encLut s = .next
      { s with unit := { freePorts s.freeIndex with encData := encRom s.inp.encAddr }, status := .ok,
               done := some .encLut, freeIndex := s.freeIndex + 1 }

/-- DEC_LUT completes with the entry of dec_addr; INVALID is a value and never a failure. Rests on: 40_code_table.md section 3 (R72), 90_conflicts.md C7. The model's choice: the free ports are log 8, done held is log 12. -/
def Obligations.DecLutReadsTheDecodeTable : Prop :=
  ∀ s : State, s.ready →
    (∀ n : Nibble, decRom s.inp.decAddr = some n →
      exec .decLut s = .next
        { s with unit := { freePorts s.freeIndex with decValid := true, decData := n }, status := .ok,
                 done := some .decLut, freeIndex := s.freeIndex + 1 }) ∧
    (decRom s.inp.decAddr = none →
      exec .decLut s = .next
        { s with unit := { freePorts s.freeIndex with decValid := false }, status := .ok,
                 done := some .decLut, freeIndex := s.freeIndex + 1 })

/-- ENCODE_UNIT completes with the 8 code words of eu_in's nibbles, high nibble of the first byte at bits 39:35. Rests on: 41_encoder.md section 1 (R130), 30_encoding.md (R52, R53). The model's choice: the free ports are log 8, done held is log 12. -/
def Obligations.EncodeUnitPacksEightCodeWords : Prop :=
  ∀ s : State, s.ready →
    exec .encodeUnit s = .next
      { s with
        unit := { freePorts s.freeIndex with
          euOut := encRom (s.inp.euIn.extractLsb' 28 4) ++ encRom (s.inp.euIn.extractLsb' 24 4) ++
            encRom (s.inp.euIn.extractLsb' 20 4) ++ encRom (s.inp.euIn.extractLsb' 16 4) ++
            encRom (s.inp.euIn.extractLsb' 12 4) ++ encRom (s.inp.euIn.extractLsb' 8 4) ++
            encRom (s.inp.euIn.extractLsb' 4 4) ++ encRom (s.inp.euIn.extractLsb' 0 4) },
        status := .ok, done := some .encodeUnit, freeIndex := s.freeIndex + 1 }

/-- DECODE_UNIT completes with the 4 bytes if all 8 fields are valid, and with InvalidCodeWord if any is not. Rests on: 42_decoder.md section 1 (R140), 60_exceptions.md (R160, R165). The model's choice: the free ports are log 8, done held is log 12. -/
def Obligations.DecodeUnitGivesFourBytesOrFails : Prop :=
  ∀ s : State, s.ready →
    (∀ n0 n1 n2 n3 n4 n5 n6 n7 : Nibble,
      decRom (s.inp.duIn.extractLsb' 35 5) = some n0 → decRom (s.inp.duIn.extractLsb' 30 5) = some n1 →
      decRom (s.inp.duIn.extractLsb' 25 5) = some n2 → decRom (s.inp.duIn.extractLsb' 20 5) = some n3 →
      decRom (s.inp.duIn.extractLsb' 15 5) = some n4 → decRom (s.inp.duIn.extractLsb' 10 5) = some n5 →
      decRom (s.inp.duIn.extractLsb' 5 5) = some n6 → decRom (s.inp.duIn.extractLsb' 0 5) = some n7 →
      exec .decodeUnit s = .next
        { s with
          unit := { freePorts s.freeIndex with
            duOk := true, duOut := n0 ++ n1 ++ n2 ++ n3 ++ n4 ++ n5 ++ n6 ++ n7 },
          status := .ok, done := some .decodeUnit, freeIndex := s.freeIndex + 1 }) ∧
    ((∃ j, j < 8 ∧ decRom (s.inp.duIn.extractLsb' (35 - 5 * j) 5) = none) →
      exec .decodeUnit s = .next
        { s with unit := { freePorts s.freeIndex with duOk := false }, status := .invalidCodeWord,
                 done := some .decodeUnit, freeIndex := s.freeIndex + 1 })

/-- NOP completes and changes nothing; an idle block with no host move changes nothing but the command port. Rests on: 60_exceptions.md section 7 (R170), 70_reset_and_hazards.md section 1 (R181). The model's choice: NOP keeping done is log 12; the idle host of the second clause is log 4. -/
def Obligations.NopLeavesEverything : Prop :=
  (∀ s : State, exec .nop s = .next s) ∧
  (∀ s : State, s.busy = false → s.host = [] → step s = .next { s with inp := { s.inp with sel := 0 } })

/-- CONSTRUCT completes in every state and gives the reset state; again, it gives the same state. Rests on: 40_code_table.md section 1 (R70), 10_state.md section 8 (R22), 70_reset_and_hazards.md section 1 (R180, R182). The model's choice: zeros on the unit result ports are log 6, OUT without a value after reset while busy is log 10, the rest kept is log 19. -/
def Obligations.ConstructGivesTheResetState : Prop :=
  ∀ s : State, ∃ t : State, exec .construct s = .next t ∧
    t = { s with constructed := true, busy := false, op := .encode, nIn := 0, g := 0, outLen := 0, status := .ok,
                 done := none, unit := UnitPorts.initial, out := if s.busy = true then [] else s.out } ∧
    exec .construct t = .next t

/-- The state after reset: registers zero, no done, and no result for the host to read. Rests on: 10_state.md section 8 (R22). The model's choice: done held, and so no result to read, is log 12. -/
def Obligations.ResetStateIsIdleAndShowsNoResult : Prop :=
  State.reset.ready ∧ State.reset.op.bit = 0 ∧ State.reset.nIn = 0 ∧ State.reset.g = 0 ∧ State.reset.outLen = 0 ∧
  State.reset.status.bit = 0 ∧ State.reset.done = none ∧
  readStatus State.reset = none ∧ readOutLen State.reset = none ∧ (∀ a, readOut State.reset a = none) ∧
  readEncData State.reset = none ∧ readDecValid State.reset = none ∧ readDecData State.reset = none ∧
  readEuOut State.reset = none ∧ readDuOk State.reset = none ∧ readDuOut State.reset = none

/-- The reserved command is refused in every state. Rests on: 30_encoding.md section 5 (R59), 92_eei_decisions.md D4. -/
def Obligations.ReservedCommandIsRefused : Prop :=
  (∀ s : State, exec .reserved s = .refused .reservedCommand) ∧
  (∀ s : State, (nextPresentation s).1.inp.sel = 0b00000111#8 → step s = .refused .reservedCommand)

/-- A command to a block never reset, or while busy, is refused with no effect. Rests on: 70_reset_and_hazards.md sections 2 and 3 (R183, R185), 93_implementation_defined.md U10, U12. The model's choice: refusing rather than leaving the move out is logs 13 and 14. -/
def Obligations.CommandsNeedAReadyBlock : Prop :=
  ∀ (i : Instr) (s : State), i ≠ .construct → i ≠ .nop → i ≠ .reserved →
    (s.constructed = false → exec i s = .refused .neverReset) ∧
    (s.constructed = true → s.busy = true → exec i s = .refused .commandWhileBusy)

/-- Reset presented to a busy block abandons the operation: no done, no result, OUT without a value. Rests on: 70_reset_and_hazards.md section 1 (R182), 92_eei_decisions.md D17. The model's choice: the host's moves are log 4, OUT without a value is log 10, that the reset may carry other operands is log 26. -/
def Obligations.ResetWhileBusyAbandonsTheOperation : Prop :=
  ∀ (s : State) (p : Presentation) (rest : List Presentation) (c : BitVec 3),
    s.busy = true → s.host = p :: rest → p.atOnce = true → p.inp.sel = 0b00001#5 ++ c →
    ∃ t : State, step s = .next t ∧ t.constructed = true ∧ t.busy = false ∧ t.done = none ∧ t.status = .ok ∧
      t.outLen = 0 ∧ t.nIn = 0 ∧ t.g = 0 ∧ t.op = .encode ∧ t.inp = p.inp ∧ t.host = rest ∧
      (∀ a, t.out.read a = none) ∧ readStatus t = none ∧ readOutLen t = none ∧ ∀ a, readOut t a = none

/-- ENCODE completes: OUT gets the encoding of the complete groups of IN, out_len = 5 floor(in_len/4), status OK. Rests on: 41_encoder.md section 2 (R132), 20_memory.md (R33, R37, R38, R42). The model's choice: one event with the registers as the group steps leave them is log 5, the free ports are log 8, done held is log 12. -/
def Obligations.EncodeWritesTheEncodedBuffer : Prop :=
  ∀ (s : State) (bs : List Byte), s.ready →
    s.inp.inMem.slice 0 (4 * (s.inp.inLen / 4)) = some bs →
    exec .encode s = .next
      { s with op := .encode, nIn := s.inp.inLen, g := s.inp.inLen / 4, outLen := 5 * (s.inp.inLen / 4),
               status := .ok, done := some .encode, unit := freePorts s.freeIndex,
               out := s.out.writeBytes 0 (encodeBytes bs), freeIndex := s.freeIndex + 1 }

/-- DECODE completes: if every complete group decodes, OUT gets the bytes, out_len = 4 floor(in_len/5), status OK. Rests on: 42_decoder.md section 2 (R142), 20_memory.md (R34, R35, R37, R39, R42). The model's choice: one event with the registers as the group steps leave them is log 5, the free ports are log 8, done held is log 12. -/
def Obligations.DecodeWritesTheDecodedBuffer : Prop :=
  ∀ (s : State) (cs ys : List Byte), s.ready →
    s.inp.inMem.slice 0 (5 * (s.inp.inLen / 5)) = some cs → decodeBytes cs = some ys →
    exec .decode s = .next
      { s with op := .decode, nIn := s.inp.inLen, g := s.inp.inLen / 5, outLen := 4 * (s.inp.inLen / 5),
               status := .ok, done := some .decode, unit := freePorts s.freeIndex,
               out := s.out.writeBytes 0 ys, freeIndex := s.freeIndex + 1 }

/-- DECODE with an invalid code word in a complete group delivers InvalidCodeWord and no bytes. Rests on: 42_decoder.md sections 1 to 3 (R142, R143, R145), 60_exceptions.md (R160, R161, R164, R165), 92_eei_decisions.md D7, D14, D15. The model's choice: one event with the registers as the group steps leave them is log 5, the free ports are log 8, OUT without a value is log 10, done held is log 12, g unspecified is log 25. -/
def Obligations.DecodeFailsAsAWhole : Prop :=
  ∀ (s : State) (cs : List Byte), s.ready →
    s.inp.inMem.slice 0 (5 * (s.inp.inLen / 5)) = some cs → decodeBytes cs = none →
    (∃ g, g < s.inp.inLen / 5 ∧ decodeBytes ((cs.drop (5 * g)).take 5) = none) ∧
    exec .decode s = .next
      { s with op := .decode, nIn := s.inp.inLen, g := Config.freeGroup (s.freeIndex + 1), outLen := 0,
               status := .invalidCodeWord, done := some .decode, unit := freePorts s.freeIndex, out := [],
               freeIndex := s.freeIndex + 1 }

/-- ENCODE gives out_len = floor(in_len/4)*5; a successful DECODE gives out_len = floor(in_len/5)*4. Formalises: R41. -/
def Obligations.ResultLengths : Prop :=
  (∀ s t : State, exec .encode s = .next t → t.outLen = s.inp.inLen / 4 * 5) ∧
  (∀ s t : State, exec .decode s = .next t →
    t.status = .ok → t.outLen = s.inp.inLen / 5 * 4) ∧
  (∀ bs : List Byte, (encodeBytes bs).length = bs.length / 4 * 5) ∧
  (∀ cs ys : List Byte, decodeBytes cs = some ys → ys.length = cs.length / 5 * 4)

/-- After a failed DECODE the host reads status 1 and out_len 0, and no byte of OUT. Rests on: 42_decoder.md section 2 (R143), 20_memory.md (R43), 60_exceptions.md (R165). The model's choice: OUT without a value is log 10, done held is log 12. -/
def Obligations.FailedDecodeShowsNoBytes : Prop :=
  ∀ s t : State, exec .decode s = .next t → t.status = .invalidCodeWord →
    readStatus t = some .invalidCodeWord ∧ readOutLen t = some 0 ∧ (∀ a, readOut t a = none) ∧
      (∀ a, t.out.read a = none) ∧ t.busy = false ∧ t.inp = s.inp

/-- Frame of ENCODE and of a successful DECODE: no byte of OUT at or above the result, no input, no host move changes. Rests on: 20_memory.md sections 2 to 4 (R33, R35, R42), 41_encoder.md (R132), 42_decoder.md (R142). The model's choice: that bytes above out_len stay is log 11. -/
def Obligations.BufferOperationsWriteOnlyTheirResult : Prop :=
  (∀ s t : State, exec .encode s = .next t →
    t.inp = s.inp ∧ t.host = s.host ∧
    ∀ a, (∀ g, g < encodeGroups s.inp.inLen → a < encodeOutAddr g ∨ encodeOutAddr g + 5 ≤ a) →
      t.out.read a = s.out.read a) ∧
  (∀ s t : State, exec .decode s = .next t →
    t.inp = s.inp ∧ t.host = s.host ∧
    (t.status = .ok → ∀ a, (∀ g, g < decodeGroups s.inp.inLen → a < decodeOutAddr g ∨ decodeOutAddr g + 4 ≤ a) →
      t.out.read a = s.out.read a))

/-- Frame of every instruction but ENCODE, DECODE and CONSTRUCT: OUT, IN, the ports and the step registers do not change. Rests on: 20_memory.md section 1 (R31), 41_encoder.md (R130), 42_decoder.md (R140), 10_state.md (R13, R19). The model's choice: that out_len and OUT stay is log 11. -/
def Obligations.LookupsAndUnitsLeaveBuffersAlone : Prop :=
  ∀ (i : Instr) (s t : State), i ≠ .encode → i ≠ .decode → i ≠ .construct → exec i s = .next t →
    (∀ a, t.out.read a = s.out.read a) ∧ (∀ a, t.inp.inMem.read a = s.inp.inMem.read a) ∧
    t.out = s.out ∧ t.inp = s.inp ∧ t.host = s.host ∧ t.outLen = s.outLen ∧ t.nIn = s.nIn ∧ t.g = s.g ∧ t.op = s.op ∧
    t.busy = s.busy ∧ t.constructed = s.constructed

/-- Only DECODE and DECODE_UNIT give status 1; every other command leaves it 0. Rests on: 10_state.md section 4 (R18), 60_exceptions.md (R160, R162), 90_conflicts.md C7. -/
def Obligations.OnlyDecodersSetStatus : Prop :=
  ∀ (i : Instr) (s t : State), exec i s = .next t → t.status = .invalidCodeWord →
    i = .decode ∨ i = .decodeUnit ∨ (i = .nop ∧ s.status = .invalidCodeWord)

/-- START: busy, op, n_in = in_len, g = 0, out_len = 0, status = 0; OUT is not written. Rests on: 41_encoder.md section 3 (R134), 42_decoder.md section 3 (R145). The model's choice: the free ports are log 8, done held is log 12. -/
def Obligations.BufferStartLatchesItsOperands : Prop :=
  ∀ (o : BufferOp) (s : State), s.ready →
    startOnly o s = .next
      { s with busy := true, op := o, nIn := s.inp.inLen, g := 0, outLen := 0, status := .ok, done := none,
               unit := freePorts s.freeIndex, freeIndex := s.freeIndex + 1 }

/-- One step of a busy ENCODE: GROUP reads 4 bytes of IN at 4g and writes 5 bytes of OUT at 5g; FINISH at the last group. Rests on: 41_encoder.md section 3 (R134). The model's choice: done held is log 12. -/
def Obligations.EncodeStepsOneGroup : Prop :=
  ∀ s : State, s.busy = true → s.op = .encode →
    (∀ b0 b1 b2 b3 : Byte, s.g < s.nIn / 4 → s.inp.inMem.slice (4 * s.g) 4 = some [b0, b1, b2, b3] →
      busyStep s = .next
        { s with out := s.out.writeBytes (5 * s.g) (bytesOfQ (encodeUnit (b0 ++ b1 ++ b2 ++ b3))),
                 outLen := s.outLen + 5, g := s.g + 1 }) ∧
    (s.g = s.nIn / 4 → busyStep s = .next { s with busy := false, done := some .encode })

/-- One step of a busy DECODE: GROUP_OK, GROUP_FAIL or FINISH. Rests on: 42_decoder.md section 3 (R145), 60_exceptions.md (R161, R165). The model's choice: OUT without a value is log 10, done held is log 12, g unspecified is log 25. -/
def Obligations.DecodeStepsOneGroup : Prop :=
  ∀ s : State, s.busy = true → s.op = .decode →
    (∀ c0 c1 c2 c3 c4 : Byte, s.g < s.nIn / 5 → s.inp.inMem.slice (5 * s.g) 5 = some [c0, c1, c2, c3, c4] →
      (∀ x : G32, decodeUnit (c0 ++ c1 ++ c2 ++ c3 ++ c4) = some x →
        busyStep s = .next
          { s with out := s.out.writeBytes (4 * s.g) (bytesOfG x), outLen := s.outLen + 4, g := s.g + 1 }) ∧
      (decodeUnit (c0 ++ c1 ++ c2 ++ c3 ++ c4) = none →
        busyStep s = .next
          { s with status := .invalidCodeWord, outLen := 0, out := [], g := Config.freeGroup s.freeIndex, busy := false,
                   done := some .decode })) ∧
    (s.g = s.nIn / 5 → busyStep s = .next { s with busy := false, done := some .decode })

/-- Run one group a step, ENCODE takes floor(in_len/4) + 2 steps and ends in the state the whole operation gives. Rests on: 41_encoder.md section 3 (R134), 92_eei_decisions.md D1, 70_reset_and_hazards.md section 4 (R190). The model's choice: both readings in one model are log 5, the host's moves are log 4. -/
def Obligations.StepwiseEncodeIsWholeEncode : Prop :=
  ∀ (s : State) (p : Presentation), s.ready → s.host = [p] → p.stepwise = true → p.inp.sel = 0b00000001#8 →
    Host.Core.run Sys2Proof.core (p.inp.inLen / 4 + 2) s =
      exec .encode { s with inp := { p.inp with sel := 0 }, host := [] }

/-- Run one group a step, DECODE ends within floor(in_len/5) + 2 steps in the state the whole operation gives. Rests on: 42_decoder.md section 3 (R145), 92_eei_decisions.md D1, 70_reset_and_hazards.md section 4 (R190). The model's choice: both readings in one model are log 5, the host's moves are log 4. -/
def Obligations.StepwiseDecodeIsWholeDecode : Prop :=
  ∀ (s : State) (p : Presentation), s.ready → s.host = [p] → p.stepwise = true → p.inp.sel = 0b00000010#8 →
    Host.Core.run Sys2Proof.core (p.inp.inLen / 5 + 2) s =
      exec .decode { s with inp := { p.inp with sel := 0 }, host := [] }

/-- A busy block left alone with its input ends its operation within the groups left plus one step. Rests on: 41_encoder.md section 3 (R134), 42_decoder.md section 3 (R145), 70_reset_and_hazards.md section 4 (R190). The model's choice: running group by group is log 5, the idle host is log 4, done held is log 12. -/
def Obligations.EveryStartedOperationEnds : Prop :=
  ∀ s : State, s.busyOk → s.busy = true → s.inputComplete → s.host = [] →
    ∃ k t, k ≤ (match s.op with | .encode => s.nIn / 4 | .decode => s.nIn / 5) - s.g + 1 ∧
      Host.Core.run Sys2Proof.core k s = .next t ∧ t.busy = false ∧ t.done.isSome = true

/-- Every step keeps IN, OUT and the buffers the host will present in canonical form. Rests on: 20_memory.md sections 1 and 4 (R30, R42). The model's choice: the form of a byte space is log 7. -/
def Obligations.EveryStepKeepsTheMemoryForm : Prop :=
  ∀ s t : State, s.memoryOk → step s = .next t → t.memoryOk

/-- Every step keeps: on a busy block OUT holds exactly the result for the groups processed, out_len = 5g or 4g, status 0. Rests on: 41_encoder.md section 3 (R134), 42_decoder.md section 3 (R145). The model's choice: done held is log 12. -/
def Obligations.EveryStepKeepsTheBusyBlockInvariant : Prop :=
  ∀ s t : State, s.busyOk → step s = .next t → t.busyOk

/-- Every step keeps: status 1 only as the result of a failed DECODE (out_len 0) or DECODE_UNIT (du_ok 0); a done means idle. Rests on: 10_state.md section 4 (R18), 60_exceptions.md sections 1, 4 and 5 (R160, R165, R166). The model's choice: done held is log 12. -/
def Obligations.EveryStepKeepsTheStatusInvariant : Prop :=
  ∀ s t : State, s.statusOk → s.busyOk → step s = .next t → t.statusOk

/-- The reset state and the power-up state meet the three invariants. Rests on: 10_state.md section 8 (R22). The model's choice: the byte spaces at reset are log 7, the power-up values are log 22. -/
def Obligations.ResetMeetsTheInvariants : Prop :=
  State.reset.memoryOk ∧ State.reset.busyOk ∧ State.reset.statusOk ∧
  State.powerOn.memoryOk ∧ State.powerOn.busyOk ∧ State.powerOn.statusOk

/-- While the host keeps its duties, no step faults or is refused. Rests on: 70_reset_and_hazards.md section 3 (R185, R186), 60_exceptions.md (R162). The model's choice: the host's moves are log 4; what stops the others is logs 3, 13, 14, 15, 17, 18 and 28; a reset with other operands is dutiful by log 26. -/
def Obligations.DutifulHostIsNeverStopped : Prop :=
  ∀ s : State, s.busyOk → s.hostDutiful → ∃ t : State, step s = .next t

/-- What the host reads after a command depends only on the command and its operands, not on what ran before. Rests on: 10_state.md section 1 (R14), 60_exceptions.md section 5 (R166), 70_reset_and_hazards.md section 5 (R191). The model's choice: done held, by which the reads go, is log 12; that NOP keeps it is why NOP is left out. -/
def Obligations.ResultsDependOnTheOperandsAlone : Prop :=
  ∀ (i : Instr) (s s' t t' : State), i ≠ .nop → s.ready → s'.ready → s.inp = s'.inp →
    exec i s = .next t → exec i s' = .next t' → t.sameResults t'

/-- Round trip: decode(encode(b)) is Ok of b without its trailing incomplete group. Rests on: 41_encoder.md section 4 (R135), 42_decoder.md section 4 (R146). -/
def Obligations.DecodeOfEncodeGivesBackTheBuffer : Prop :=
  ∀ bs : List Byte, decodeBytes (encodeBytes bs) = some (bs.take (4 * (bs.length / 4))) ∧
    (bs.length % 4 = 0 → decodeBytes (encodeBytes bs) = some bs)

/-- Inverse round trip: if decode(c) = Ok(y) then encode(y) is c without its trailing incomplete group. Rests on: 42_decoder.md section 4 (R146). -/
def Obligations.EncodeOfDecodeGivesBackTheBuffer : Prop :=
  ∀ cs ys : List Byte, decodeBytes cs = some ys → encodeBytes ys = cs.take (5 * (cs.length / 5))

/-- decode(c) fails exactly when some 5-bit field of some complete group is an invalid code word. Rests on: 42_decoder.md section 4 (R146), 60_exceptions.md (R160, R164), 20_memory.md (R39). -/
def Obligations.DecodeFailsExactlyOnAnInvalidField : Prop :=
  ∀ cs : List Byte, decodeBytes cs = none ↔
    ∃ g c0 c1 c2 c3 c4 j, (cs.drop (5 * g)).take 5 = [c0, c1, c2, c3, c4] ∧ j < 8 ∧
      decRom ((c0 ++ c1 ++ c2 ++ c3 ++ c4 : Q40).extractLsb' (35 - 5 * j) 5) = none

/-- The 0 to 3 (encode) or 0 to 4 (decode) trailing bytes have no effect on the result. Rests on: 20_memory.md section 3 (R38, R39, R40), 41_encoder.md (R132), 42_decoder.md (R142). -/
def Obligations.TrailingBytesAreDropped : Prop :=
  (∀ bs r : List Byte, bs.length % 4 = 0 → r.length < 4 → encodeBytes (bs ++ r) = encodeBytes bs) ∧
  (∀ cs r : List Byte, cs.length % 5 = 0 → r.length < 5 → decodeBytes (cs ++ r) = decodeBytes cs) ∧
  (∀ r : List Byte, r.length < 4 → encodeBytes r = []) ∧ (∀ r : List Byte, r.length < 5 → decodeBytes r = some [])

/-- On whole groups encode and decode distribute over concatenation; decode fails when either part fails. Rests on: 41_encoder.md section 4 (R135), 42_decoder.md section 4 (R146). -/
def Obligations.WholeGroupsConcatenate : Prop :=
  (∀ a b : List Byte, a.length % 4 = 0 → encodeBytes (a ++ b) = encodeBytes a ++ encodeBytes b) ∧
  (∀ a b : List Byte, a.length % 5 = 0 →
    (∀ x y : List Byte, decodeBytes a = some x → decodeBytes b = some y → decodeBytes (a ++ b) = some (x ++ y)) ∧
    (decodeBytes a = none ∨ decodeBytes b = none → decodeBytes (a ++ b) = none))

/-- DECODE_UNIT undoes ENCODE_UNIT, and ENCODE_UNIT undoes DECODE_UNIT where it succeeds. Rests on: 42_decoder.md section 4 (R146), 41_encoder.md section 4 (R135). -/
def Obligations.UnitsAreInverse : Prop :=
  (∀ x : G32, decodeUnit (encodeUnit x) = some x) ∧
  (∀ (q : Q40) (x : G32), decodeUnit q = some x → encodeUnit x = q) ∧
  (∀ x y : G32, encodeUnit x = encodeUnit y → x = y)

/-- Field j of a packed group is code word j, at bits 39-5j to 35-5j, which is (Q40 >> (35-5j)) & 0b11111. Formalises: R53. -/
def Obligations.FieldsOfAnEncodedGroup : Prop :=
  (∀ c0 c1 c2 c3 c4 c5 c6 c7 : CodeWord,
    packFields c0 c1 c2 c3 c4 c5 c6 c7 = c0 ++ c1 ++ c2 ++ c3 ++ c4 ++ c5 ++ c6 ++ c7 ∧
    ∀ j, j < 8 → some ((packFields c0 c1 c2 c3 c4 c5 c6 c7).extractLsb' (35 - 5 * j) 5) =
      [c0, c1, c2, c3, c4, c5, c6, c7][j]?) ∧
  (∀ (q : Q40) (j : Nat), j < 8 → (fieldOf q j).setWidth 40 = (q >>> (35 - 5 * j)) &&& 0b11111#40) ∧
  (∀ (b0 b1 b2 b3 : Byte) (j : Nat), j < 8 →
    some ((encodeUnit (b0 ++ b1 ++ b2 ++ b3)).extractLsb' (35 - 5 * j) 5) =
      [encRom (hiNibble b0), encRom (loNibble b0), encRom (hiNibble b1), encRom (loNibble b1),
       encRom (hiNibble b2), encRom (loNibble b2), encRom (hiNibble b3), encRom (loNibble b3)][j]?)

/-- A byte is its high nibble (byte >> 4) and its low nibble (byte & 0xF), and is put together from them. Formalises: R51. -/
def Obligations.BytesSplitIntoNibbles : Prop :=
  ∀ x : Byte, (hiNibble x).setWidth 8 = x >>> 4 ∧ (loNibble x).setWidth 8 = x &&& 0xF#8 ∧
    hiNibble x = x.extractLsb' 4 4 ∧ loNibble x = x.extractLsb' 0 4 ∧ x = pairNibbles (hiNibble x) (loNibble x) ∧
    pairNibbles (hiNibble x) (loNibble x) = ((hiNibble x).setWidth 8 <<< 4) ||| (loNibble x).setWidth 8

/-- Which code-word bits each of the 5 bytes of a group holds, most significant byte first. Rests on: 30_encoding.md section 1 (R54), 20_memory.md (R33). -/
def Obligations.CodeWordsStraddleTheBytes : Prop :=
  ∀ c0 c1 c2 c3 c4 c5 c6 c7 : CodeWord,
    bytesOfQ (packFields c0 c1 c2 c3 c4 c5 c6 c7) =
      [c0 ++ c1.extractLsb' 2 3, c1.extractLsb' 0 2 ++ c2 ++ c3.extractLsb' 4 1,
       c3.extractLsb' 0 4 ++ c4.extractLsb' 1 4, c4.extractLsb' 0 1 ++ c5 ++ c6.extractLsb' 3 2,
       c6.extractLsb' 0 3 ++ c7]

/-- The shift-in and byte-emitting packers give the packed group and its 5 bytes, and hold nothing at the end. Rests on: 41_encoder.md section 1 (R131). -/
def Obligations.PackerFormsAgree : Prop :=
  ∀ c0 c1 c2 c3 c4 c5 c6 c7 : CodeWord,
    packShift [c0, c1, c2, c3, c4, c5, c6, c7] = packFields c0 c1 c2 c3 c4 c5 c6 c7 ∧
    packEmit 0 0 [c0, c1, c2, c3, c4, c5, c6, c7] = bytesOfQ (packFields c0 c1 c2 c3 c4 c5 c6 c7) ∧
    packHeld 0 0 [c0, c1, c2, c3, c4, c5, c6, c7] = (0, 0)

/-- The shift-out and byte-consuming unpackers give the 8 fields of a group, and hold nothing at the end. Rests on: 42_decoder.md section 1 (R141). -/
def Obligations.UnpackerFormsAgree : Prop :=
  ∀ q : Q40,
    unpackShift q 8 =
      [fieldOf q 0, fieldOf q 1, fieldOf q 2, fieldOf q 3, fieldOf q 4, fieldOf q 5, fieldOf q 6, fieldOf q 7] ∧
    unpackFeed 0 0 (bytesOfQ q) =
      ([fieldOf q 0, fieldOf q 1, fieldOf q 2, fieldOf q 3, fieldOf q 4, fieldOf q 5, fieldOf q 6, fieldOf q 7], 0, 0)

/-- The bit stream of any encoded buffer has no three 0 bits in a row and no nine 1 bits in a row. Rests on: 40_code_table.md section 4, the properties under R74. -/
def Obligations.EncodedStreamHasNoLongRuns : Prop :=
  ∀ bs : List Byte,
    ¬ List.replicate 3 false <:+: bitStream (encodeBytes bs) ∧ ¬ List.replicate 9 true <:+: bitStream (encodeBytes bs)

/-- On the block: ENCODE, then DECODE of the bytes it wrote, gives the original bytes back with status OK. Rests on: 41_encoder.md sections 2 and 4 (R132, R135), 42_decoder.md sections 2 and 4 (R142, R146). The model's choice: one event is log 5, done held is log 12. -/
def Obligations.EncodeThenDecodeOnTheBlock : Prop :=
  ∀ (s : State) (bs : List Byte), s.ready → s.inp.inMem.slice 0 (4 * (s.inp.inLen / 4)) = some bs →
    ∃ t u : State, exec .encode s = .next t ∧
      exec .decode { t with inp := { t.inp with inLen := t.outLen, inMem := t.out } } = .next u ∧
      u.status = .ok ∧ u.outLen = bs.length ∧ u.out.slice 0 u.outLen = some bs ∧ u.done = some .decode

/-- After each lookup and unit command the host reads its results, and no result of any other command. Rests on: 10_state.md section 5 (R19), 70_reset_and_hazards.md section 3 (R185), 93_implementation_defined.md U6, U14. The model's choice: done held, by which the reads go, is log 12. -/
def Obligations.ReadsFollowTheLatestCommand : Prop :=
  (∀ s t : State, exec .encLut s = .next t →
    readEncData t = some (encRom s.inp.encAddr) ∧ readStatus t = some .ok ∧ readOutLen t = none ∧
    (∀ a, readOut t a = none) ∧ readDecValid t = none ∧ readDecData t = none ∧ readEuOut t = none ∧
    readDuOk t = none ∧ readDuOut t = none) ∧
  (∀ s t : State, exec .decLut s = .next t →
    readDecValid t = some (decRom s.inp.decAddr).isSome ∧ readDecData t = decRom s.inp.decAddr ∧
    readStatus t = some .ok ∧ readOutLen t = none ∧ (∀ a, readOut t a = none) ∧ readEncData t = none ∧
    readEuOut t = none ∧ readDuOk t = none ∧ readDuOut t = none) ∧
  (∀ s t : State, exec .encodeUnit s = .next t →
    readEuOut t = some (encodeUnit s.inp.euIn) ∧ readStatus t = some .ok ∧ readOutLen t = none ∧
    (∀ a, readOut t a = none) ∧ readEncData t = none ∧ readDecValid t = none ∧ readDecData t = none ∧
    readDuOk t = none ∧ readDuOut t = none) ∧
  (∀ s t : State, exec .decodeUnit s = .next t →
    readDuOk t = some (decodeUnit s.inp.duIn).isSome ∧ readDuOut t = decodeUnit s.inp.duIn ∧
    readStatus t = some (if (decodeUnit s.inp.duIn).isSome then .ok else .invalidCodeWord) ∧ readOutLen t = none ∧
    (∀ a, readOut t a = none) ∧ readEncData t = none ∧ readDecValid t = none ∧ readDecData t = none ∧
    readEuOut t = none)

/-- After a successful buffer operation the host reads out_len, status 0 and the bytes of OUT below out_len, and no others. Rests on: 41_encoder.md (R132), 42_decoder.md (R142), 20_memory.md (R42, R45), 70_reset_and_hazards.md section 3 (R185, R186). The model's choice: done held, by which the reads go, is log 12. -/
def Obligations.HostReadsTheBufferResult : Prop :=
  (∀ (s t : State) (bs : List Byte), s.inp.inMem.slice 0 (4 * (s.inp.inLen / 4)) = some bs → exec .encode s = .next t →
    (∀ a, readOut t a = (encodeBytes bs)[a]?) ∧ readOutLen t = some (encodeBytes bs).length ∧
    readStatus t = some .ok ∧ readEncData t = none ∧ readDecValid t = none ∧ readEuOut t = none ∧ readDuOk t = none) ∧
  (∀ (s t : State) (cs ys : List Byte), s.inp.inMem.slice 0 (5 * (s.inp.inLen / 5)) = some cs →
    decodeBytes cs = some ys → exec .decode s = .next t →
    (∀ a, readOut t a = ys[a]?) ∧ readOutLen t = some ys.length ∧
    readStatus t = some .ok ∧ readEncData t = none ∧ readDecValid t = none ∧ readEuOut t = none ∧ readDuOk t = none)
end

