-- ==== Sys2Proof/Laws/Memory.lean ====
section
/-!
SUPPORT. Laws of the byte spaces: read after write, every operation keeps the canonical form, slices of what was written,
whole groups as slices.
-/

namespace Sys2Proof.Machine

/-! ### One byte -/

@[simp] theorem Memory.read_nil (a : Nat) : Memory.read [] a = none := rfl

/-- Reading the address just written gives the byte written. -/
@[simp] theorem Memory.read_write_self (m : Memory) (a : Nat) (v : Byte) : (m.write a v).read a = some v := by
  induction m with
  | nil => simp [Memory.write, Memory.read]
  | cons c rest ih =>
    obtain ⟨b, w⟩ := c
    simp only [Memory.write]
    split_ifs with h1 h2
    · simp [Memory.read]
    · simp [Memory.read]
    · simp [Memory.read, Ne.symm h2, ih]

/-- Every other address reads as before. -/
theorem Memory.read_write_other (m : Memory) {a b : Nat} (v : Byte) (h : a ≠ b) : (m.write a v).read b = m.read b := by
  induction m with
  | nil => simp [Memory.write, Memory.read, h]
  | cons c rest ih =>
    obtain ⟨k, w⟩ := c
    simp only [Memory.write]
    split_ifs with h1 h2
    · simp [Memory.read, h]
    · subst h2; simp [Memory.read, h]
    · simp only [Memory.read, ih]

theorem Memory.read_write (m : Memory) (a b : Nat) (v : Byte) :
    (m.write a v).read b = if a = b then some v else m.read b := by
  by_cases h : a = b
  · subst h; simp
  · simp [h, Memory.read_write_other m v h]

/-! ### The canonical form -/

theorem Memory.wf_nil : Memory.wf [] = true := rfl

theorem Memory.wf_cons_cons (a b : Nat) (v w : Byte) (m : Memory) :
    Memory.wf ((a, v) :: (b, w) :: m) = true ↔ a < b ∧ Memory.wf ((b, w) :: m) = true := by
  simp [Memory.wf]

theorem Memory.wf_tail {c : Host.Cell} {m : Memory} (h : Memory.wf (c :: m) = true) : Memory.wf m = true := by
  cases m with
  | nil => rfl
  | cons d m => obtain ⟨a, v⟩ := c; obtain ⟨b, w⟩ := d; exact ((Memory.wf_cons_cons a b v w m).1 h).2

/-- A write below which the first key stays keeps the form. -/
theorem Memory.wf_cons_write {k : Nat} {w : Byte} {m : Memory} (h : Memory.wf ((k, w) :: m) = true) {a : Nat}
    (hka : k < a) (v : Byte) (ih : (m.write a v).wf = true) : Memory.wf ((k, w) :: m.write a v) = true := by
  cases m with
  | nil => simp [Memory.write, Memory.wf, hka]
  | cons d m =>
    obtain ⟨b, x⟩ := d
    have hkb := ((Memory.wf_cons_cons k b w x m).1 h).1
    simp only [Memory.write] at ih ⊢
    split_ifs at ih ⊢ with h1 h2
    · exact (Memory.wf_cons_cons _ _ _ _ _).2 ⟨hka, ih⟩
    · exact (Memory.wf_cons_cons _ _ _ _ _).2 ⟨hka, ih⟩
    · exact (Memory.wf_cons_cons _ _ _ _ _).2 ⟨hkb, ih⟩

/-- A write keeps the canonical form. -/
theorem Memory.wf_write {m : Memory} (h : m.wf = true) (a : Nat) (v : Byte) : (m.write a v).wf = true := by
  induction m with
  | nil => rfl
  | cons c rest ih =>
    obtain ⟨b, w⟩ := c
    have hr := ih (Memory.wf_tail h)
    by_cases h1 : a < b
    · simpa [Memory.write, h1, Memory.wf_cons_cons] using h
    · by_cases h2 : a = b
      · subst h2
        cases rest with
        | nil => simp [Memory.write, Memory.wf]
        | cons d m =>
          obtain ⟨e, x⟩ := d
          simpa [Memory.write, Memory.wf_cons_cons] using h
      · have : b < a := by omega
        simpa [Memory.write, h1, h2] using Memory.wf_cons_write h this v hr

/-- Writing several bytes keeps the canonical form. -/
theorem Memory.wf_writeBytes {m : Memory} (h : m.wf = true) (a : Nat) (bs : List Byte) :
    (m.writeBytes a bs).wf = true := by
  induction bs generalizing m a with
  | nil => exact h
  | cons b bs ih => exact ih (Memory.wf_write h a b) (a + 1)

/-- A space made from a list of bytes has the canonical form. -/
theorem Memory.wf_ofBytes (a : Nat) (bs : List Byte) : (Memory.ofBytes a bs).wf = true := by
  induction bs generalizing a with
  | nil => rfl
  | cons b bs ih =>
    cases bs with
    | nil => rfl
    | cons c bs => exact (Memory.wf_cons_cons _ _ _ _ _).2 ⟨by omega, ih (a + 1)⟩

/-! ### Several bytes written -/

@[simp] theorem Memory.writeBytes_nil (m : Memory) (a : Nat) : m.writeBytes a [] = m := rfl

theorem Memory.writeBytes_append (m : Memory) (a : Nat) (xs ys : List Byte) :
    m.writeBytes a (xs ++ ys) = (m.writeBytes a xs).writeBytes (a + xs.length) ys := by
  induction xs generalizing m a with
  | nil => simp
  | cons x xs ih =>
    simp only [List.cons_append, Memory.writeBytes, List.length_cons, ih]
    congr 1; omega

/-- An address below or above the bytes written reads as before. -/
theorem Memory.read_writeBytes_outside (m : Memory) (a b : Nat) (bs : List Byte) (h : b < a ∨ a + bs.length ≤ b) :
    (m.writeBytes a bs).read b = m.read b := by
  induction bs generalizing m a with
  | nil => rfl
  | cons x bs ih =>
    simp only [List.length_cons] at h
    rw [Memory.writeBytes, ih _ _ (by omega), Memory.read_write_other _ _ (by omega)]

/-- The bytes written read back in order. -/
theorem Memory.read_writeBytes_inside (m : Memory) (a i : Nat) (bs : List Byte) (h : i < bs.length) :
    (m.writeBytes a bs).read (a + i) = some bs[i] := by
  induction bs generalizing m a i with
  | nil => simp at h
  | cons x bs ih =>
    cases i with
    | zero =>
      rw [Memory.writeBytes, Memory.read_writeBytes_outside _ _ _ _ (by omega)]
      simp
    | succ i =>
      have := ih (m.write a x) (a + 1) i (by simpa using h)
      simpa [Memory.writeBytes, Nat.add_assoc, Nat.add_comm 1 i] using this

/-! ### Slices -/

@[simp] theorem Memory.slice_zero (m : Memory) (a : Nat) : m.slice a 0 = some [] := rfl

theorem Memory.slice_succ_some (m : Memory) (a n : Nat) (bs : List Byte) :
    m.slice a (n + 1) = some bs ↔ ∃ b r, m.read a = some b ∧ m.slice (a + 1) n = some r ∧ bs = b :: r := by
  simp only [Memory.slice]
  cases m.read a <;> cases Memory.slice m (a + 1) n <;> simp [eq_comm]

theorem Memory.slice_length {m : Memory} {a n : Nat} {bs : List Byte} (h : m.slice a n = some bs) :
    bs.length = n := by
  induction n generalizing a bs with
  | zero => simp_all [Memory.slice]
  | succ n ih =>
    obtain ⟨b, r, -, hr, rfl⟩ := (Memory.slice_succ_some m a n bs).1 h
    simp [ih hr]

/-- A slice of `n + k` bytes is a slice of `n` and the next `k`. -/
theorem Memory.slice_append (m : Memory) (a n k : Nat) (bs : List Byte) :
    m.slice a (n + k) = some bs ↔
      ∃ xs ys, m.slice a n = some xs ∧ m.slice (a + n) k = some ys ∧ bs = xs ++ ys := by
  induction n generalizing a bs with
  | zero => simp
  | succ n ih =>
    rw [show n + 1 + k = (n + k) + 1 by omega, Memory.slice_succ_some]
    constructor
    · rintro ⟨b, r, hb, hr, rfl⟩
      obtain ⟨xs, ys, hx, hy, rfl⟩ := (ih (a + 1) r).1 hr
      refine ⟨b :: xs, ys, (Memory.slice_succ_some ..).2 ⟨b, xs, hb, hx, rfl⟩, ?_, rfl⟩
      rwa [show a + (n + 1) = a + 1 + n by omega]
    · rintro ⟨xs, ys, hx, hy, rfl⟩
      obtain ⟨b, r, hb, hr, rfl⟩ := (Memory.slice_succ_some ..).1 hx
      refine ⟨b, r ++ ys, hb, (ih (a + 1) _).2 ⟨r, ys, hr, ?_, rfl⟩, rfl⟩
      rwa [show a + 1 + n = a + (n + 1) by omega]

/-- A slice depends only on the bytes in its range. -/
theorem Memory.slice_congr {m m' : Memory} {a n : Nat} (h : ∀ i, i < n → m.read (a + i) = m'.read (a + i)) :
    m.slice a n = m'.slice a n := by
  induction n generalizing a with
  | zero => rfl
  | succ n ih =>
    have h0 := h 0 (by omega)
    have ht := ih (a := a + 1) fun i hi => by
      have := h (i + 1) (by omega); simpa [Nat.add_assoc, Nat.add_comm 1 i] using this
    simp only [Nat.add_zero] at h0
    simp only [Memory.slice, h0, ht]

/-- What was written is the slice there. -/
theorem Memory.slice_writeBytes_self (m : Memory) (a : Nat) (bs : List Byte) :
    (m.writeBytes a bs).slice a bs.length = some bs := by
  induction bs generalizing m a with
  | nil => rfl
  | cons x bs ih =>
    have hx := Memory.read_writeBytes_inside m a 0 (x :: bs) (by simp)
    exact (Memory.slice_succ_some ..).2 ⟨x, bs, by simpa using hx, ih (m.write a x) (a + 1), rfl⟩

/-- A slice below what was written is unchanged. -/
theorem Memory.slice_writeBytes_below (m : Memory) {a n b : Nat} (bs : List Byte) (h : a + n ≤ b) :
    (m.writeBytes b bs).slice a n = m.slice a n :=
  Memory.slice_congr fun i hi => Memory.read_writeBytes_outside m b (a + i) bs (by omega)

/-- Bytes appended in the space directly above a slice are appended to the slice. -/
theorem Memory.slice_writeBytes_append {m : Memory} {a n : Nat} {xs : List Byte} (h : m.slice a n = some xs)
    (ys : List Byte) : (m.writeBytes (a + n) ys).slice a (n + ys.length) = some (xs ++ ys) :=
  (Memory.slice_append ..).2
    ⟨xs, ys, by rw [Memory.slice_writeBytes_below m ys (Nat.le_refl _), h], Memory.slice_writeBytes_self m _ ys, rfl⟩

/-- A byte inside a slice that is there reads as that byte of the slice. -/
theorem Memory.read_of_slice {m : Memory} {a n i : Nat} {bs : List Byte} (h : m.slice a n = some bs) (hi : i < n) :
    m.read (a + i) = bs[i]? := by
  induction n generalizing a i bs with
  | zero => omega
  | succ n ih =>
    obtain ⟨b, r, hb, hr, rfl⟩ := (Memory.slice_succ_some ..).1 h
    cases i with
    | zero => simpa using hb
    | succ i =>
      have := ih hr (i := i) (by omega)
      simpa [Nat.add_assoc, Nat.add_comm 1 i] using this

/-- A slice is there exactly when each of its bytes is. -/
theorem Memory.slice_isSome_iff (m : Memory) (a n : Nat) :
    (m.slice a n).isSome ↔ ∀ i, i < n → (m.read (a + i)).isSome := by
  induction n generalizing a with
  | zero => simp
  | succ n ih =>
    constructor
    · intro h i hi
      obtain ⟨bs, hbs⟩ := Option.isSome_iff_exists.1 h
      rw [Memory.read_of_slice hbs hi]
      simp [Memory.slice_length hbs, hi]
    · intro h
      obtain ⟨b, hb⟩ := Option.isSome_iff_exists.1 (h 0 (by omega))
      obtain ⟨r, hr⟩ := Option.isSome_iff_exists.1 ((ih (a + 1)).2 fun i hi => by
        have := h (i + 1) (by omega); simpa [Nat.add_assoc, Nat.add_comm 1 i] using this)
      exact Option.isSome_iff_exists.2 ⟨b :: r, (Memory.slice_succ_some ..).2 ⟨b, r, by simpa using hb, hr, rfl⟩⟩

/-- The bytes a space was made from are its slice. -/
theorem Memory.slice_ofBytes (a : Nat) (bs : List Byte) : (Memory.ofBytes a bs).slice a bs.length = some bs := by
  have key : ∀ (xs : List Byte) (k a : Nat) (b : Byte), a < k →
      Memory.slice ((a, b) :: Memory.ofBytes k xs) k xs.length = (Memory.ofBytes k xs).slice k xs.length :=
    fun xs k a b h => Memory.slice_congr fun i _ => by simp [Memory.read, show ¬ a = k + i by omega]
  induction bs generalizing a with
  | nil => rfl
  | cons b bs ih =>
    refine (Memory.slice_succ_some ..).2 ⟨b, bs, by simp [Memory.ofBytes, Memory.read], ?_, rfl⟩
    rw [Memory.ofBytes, key bs (a + 1) a b (by omega), ih]

/-! ### Whole groups -/

/-- `MemRead(m, a, 4)` is the slice of 4 bytes, the first one most significant. -/
theorem Memory.read4_eq_some (m : Memory) (a : Nat) (x : G32) :
    m.read4 a = some x ↔ ∃ b0 b1 b2 b3, m.slice a 4 = some [b0, b1, b2, b3] ∧ x = b0 ++ b1 ++ b2 ++ b3 := by
  simp only [Memory.read4, Memory.slice, Nat.add_assoc]
  cases m.read a <;> cases m.read (a + 1) <;> cases m.read (a + 2) <;> cases m.read (a + 3) <;> simp [eq_comm]

/-- `MemRead(m, a, 5)` is the slice of 5 bytes, the first one most significant. -/
theorem Memory.read5_eq_some (m : Memory) (a : Nat) (q : Q40) :
    m.read5 a = some q ↔
      ∃ c0 c1 c2 c3 c4, m.slice a 5 = some [c0, c1, c2, c3, c4] ∧ q = c0 ++ c1 ++ c2 ++ c3 ++ c4 := by
  simp only [Memory.read5, Memory.slice, Nat.add_assoc]
  cases m.read a <;> cases m.read (a + 1) <;> cases m.read (a + 2) <;> cases m.read (a + 3) <;>
    cases m.read (a + 4) <;> simp [eq_comm]

end Sys2Proof.Machine
end

