-- ==== Sys2Proof/Laws/State.lean ====
section
/-!
SUPPORT. One lemma per field per update of the state, so that no proof unfolds an update.
-/

namespace Sys2Proof.Machine

@[simp] theorem beginCommand_constructed (s : State) : (beginCommand s).constructed = s.constructed := rfl
@[simp] theorem beginCommand_busy (s : State) : (beginCommand s).busy = s.busy := rfl
@[simp] theorem beginCommand_op (s : State) : (beginCommand s).op = s.op := rfl
@[simp] theorem beginCommand_nIn (s : State) : (beginCommand s).nIn = s.nIn := rfl
@[simp] theorem beginCommand_g (s : State) : (beginCommand s).g = s.g := rfl
@[simp] theorem beginCommand_outLen (s : State) : (beginCommand s).outLen = s.outLen := rfl
@[simp] theorem beginCommand_status (s : State) : (beginCommand s).status = s.status := rfl
@[simp] theorem beginCommand_done (s : State) : (beginCommand s).done = none := rfl
@[simp] theorem beginCommand_unit (s : State) : (beginCommand s).unit = freePorts s.freeIndex := rfl
@[simp] theorem beginCommand_out (s : State) : (beginCommand s).out = s.out := rfl
@[simp] theorem beginCommand_inp (s : State) : (beginCommand s).inp = s.inp := rfl
@[simp] theorem beginCommand_host (s : State) : (beginCommand s).host = s.host := rfl
@[simp] theorem beginCommand_freeIndex (s : State) : (beginCommand s).freeIndex = s.freeIndex + 1 := rfl

@[simp] theorem deliverEncData_constructed (c : CodeWord) (s : State) : (deliverEncData c s).constructed = s.constructed := rfl
@[simp] theorem deliverEncData_busy (c : CodeWord) (s : State) : (deliverEncData c s).busy = s.busy := rfl
@[simp] theorem deliverEncData_op (c : CodeWord) (s : State) : (deliverEncData c s).op = s.op := rfl
@[simp] theorem deliverEncData_nIn (c : CodeWord) (s : State) : (deliverEncData c s).nIn = s.nIn := rfl
@[simp] theorem deliverEncData_g (c : CodeWord) (s : State) : (deliverEncData c s).g = s.g := rfl
@[simp] theorem deliverEncData_outLen (c : CodeWord) (s : State) : (deliverEncData c s).outLen = s.outLen := rfl
@[simp] theorem deliverEncData_status (c : CodeWord) (s : State) : (deliverEncData c s).status = .ok := rfl
@[simp] theorem deliverEncData_done (c : CodeWord) (s : State) : (deliverEncData c s).done = some .encLut := rfl
@[simp] theorem deliverEncData_unit (c : CodeWord) (s : State) : (deliverEncData c s).unit = { s.unit with encData := c } := rfl
@[simp] theorem deliverEncData_out (c : CodeWord) (s : State) : (deliverEncData c s).out = s.out := rfl
@[simp] theorem deliverEncData_inp (c : CodeWord) (s : State) : (deliverEncData c s).inp = s.inp := rfl
@[simp] theorem deliverEncData_host (c : CodeWord) (s : State) : (deliverEncData c s).host = s.host := rfl
@[simp] theorem deliverEncData_freeIndex (c : CodeWord) (s : State) : (deliverEncData c s).freeIndex = s.freeIndex := rfl

@[simp] theorem deliverDecEntry_constructed (e : Option Nibble) (s : State) : (deliverDecEntry e s).constructed = s.constructed := rfl
@[simp] theorem deliverDecEntry_busy (e : Option Nibble) (s : State) : (deliverDecEntry e s).busy = s.busy := rfl
@[simp] theorem deliverDecEntry_op (e : Option Nibble) (s : State) : (deliverDecEntry e s).op = s.op := rfl
@[simp] theorem deliverDecEntry_nIn (e : Option Nibble) (s : State) : (deliverDecEntry e s).nIn = s.nIn := rfl
@[simp] theorem deliverDecEntry_g (e : Option Nibble) (s : State) : (deliverDecEntry e s).g = s.g := rfl
@[simp] theorem deliverDecEntry_outLen (e : Option Nibble) (s : State) : (deliverDecEntry e s).outLen = s.outLen := rfl
@[simp] theorem deliverDecEntry_status (e : Option Nibble) (s : State) : (deliverDecEntry e s).status = .ok := rfl
@[simp] theorem deliverDecEntry_done (e : Option Nibble) (s : State) : (deliverDecEntry e s).done = some .decLut := rfl
@[simp] theorem deliverDecEntry_unit (e : Option Nibble) (s : State) : (deliverDecEntry e s).unit = { s.unit with decValid := entryValid e, decData := e.getD s.unit.decData } := rfl
@[simp] theorem deliverDecEntry_out (e : Option Nibble) (s : State) : (deliverDecEntry e s).out = s.out := rfl
@[simp] theorem deliverDecEntry_inp (e : Option Nibble) (s : State) : (deliverDecEntry e s).inp = s.inp := rfl
@[simp] theorem deliverDecEntry_host (e : Option Nibble) (s : State) : (deliverDecEntry e s).host = s.host := rfl
@[simp] theorem deliverDecEntry_freeIndex (e : Option Nibble) (s : State) : (deliverDecEntry e s).freeIndex = s.freeIndex := rfl

@[simp] theorem deliverEuOut_constructed (q : Q40) (s : State) : (deliverEuOut q s).constructed = s.constructed := rfl
@[simp] theorem deliverEuOut_busy (q : Q40) (s : State) : (deliverEuOut q s).busy = s.busy := rfl
@[simp] theorem deliverEuOut_op (q : Q40) (s : State) : (deliverEuOut q s).op = s.op := rfl
@[simp] theorem deliverEuOut_nIn (q : Q40) (s : State) : (deliverEuOut q s).nIn = s.nIn := rfl
@[simp] theorem deliverEuOut_g (q : Q40) (s : State) : (deliverEuOut q s).g = s.g := rfl
@[simp] theorem deliverEuOut_outLen (q : Q40) (s : State) : (deliverEuOut q s).outLen = s.outLen := rfl
@[simp] theorem deliverEuOut_status (q : Q40) (s : State) : (deliverEuOut q s).status = .ok := rfl
@[simp] theorem deliverEuOut_done (q : Q40) (s : State) : (deliverEuOut q s).done = some .encodeUnit := rfl
@[simp] theorem deliverEuOut_unit (q : Q40) (s : State) : (deliverEuOut q s).unit = { s.unit with euOut := q } := rfl
@[simp] theorem deliverEuOut_out (q : Q40) (s : State) : (deliverEuOut q s).out = s.out := rfl
@[simp] theorem deliverEuOut_inp (q : Q40) (s : State) : (deliverEuOut q s).inp = s.inp := rfl
@[simp] theorem deliverEuOut_host (q : Q40) (s : State) : (deliverEuOut q s).host = s.host := rfl
@[simp] theorem deliverEuOut_freeIndex (q : Q40) (s : State) : (deliverEuOut q s).freeIndex = s.freeIndex := rfl

@[simp] theorem deliverDuOut_constructed (x : G32) (s : State) : (deliverDuOut x s).constructed = s.constructed := rfl
@[simp] theorem deliverDuOut_busy (x : G32) (s : State) : (deliverDuOut x s).busy = s.busy := rfl
@[simp] theorem deliverDuOut_op (x : G32) (s : State) : (deliverDuOut x s).op = s.op := rfl
@[simp] theorem deliverDuOut_nIn (x : G32) (s : State) : (deliverDuOut x s).nIn = s.nIn := rfl
@[simp] theorem deliverDuOut_g (x : G32) (s : State) : (deliverDuOut x s).g = s.g := rfl
@[simp] theorem deliverDuOut_outLen (x : G32) (s : State) : (deliverDuOut x s).outLen = s.outLen := rfl
@[simp] theorem deliverDuOut_status (x : G32) (s : State) : (deliverDuOut x s).status = .ok := rfl
@[simp] theorem deliverDuOut_done (x : G32) (s : State) : (deliverDuOut x s).done = some .decodeUnit := rfl
@[simp] theorem deliverDuOut_unit (x : G32) (s : State) : (deliverDuOut x s).unit = { s.unit with duOk := true, duOut := x } := rfl
@[simp] theorem deliverDuOut_out (x : G32) (s : State) : (deliverDuOut x s).out = s.out := rfl
@[simp] theorem deliverDuOut_inp (x : G32) (s : State) : (deliverDuOut x s).inp = s.inp := rfl
@[simp] theorem deliverDuOut_host (x : G32) (s : State) : (deliverDuOut x s).host = s.host := rfl
@[simp] theorem deliverDuOut_freeIndex (x : G32) (s : State) : (deliverDuOut x s).freeIndex = s.freeIndex := rfl

@[simp] theorem takeInvalidCodeWord_decode_constructed (s : State) : (takeInvalidCodeWord .decode s).constructed = s.constructed := rfl
@[simp] theorem takeInvalidCodeWord_decode_busy (s : State) : (takeInvalidCodeWord .decode s).busy = false := rfl
@[simp] theorem takeInvalidCodeWord_decode_op (s : State) : (takeInvalidCodeWord .decode s).op = s.op := rfl
@[simp] theorem takeInvalidCodeWord_decode_nIn (s : State) : (takeInvalidCodeWord .decode s).nIn = s.nIn := rfl
@[simp] theorem takeInvalidCodeWord_decode_g (s : State) : (takeInvalidCodeWord .decode s).g = Config.freeGroup s.freeIndex := rfl
@[simp] theorem takeInvalidCodeWord_decode_outLen (s : State) : (takeInvalidCodeWord .decode s).outLen = 0 := rfl
@[simp] theorem takeInvalidCodeWord_decode_status (s : State) : (takeInvalidCodeWord .decode s).status = .invalidCodeWord := rfl
@[simp] theorem takeInvalidCodeWord_decode_done (s : State) : (takeInvalidCodeWord .decode s).done = some .decode := rfl
@[simp] theorem takeInvalidCodeWord_decode_unit (s : State) : (takeInvalidCodeWord .decode s).unit = s.unit := rfl
@[simp] theorem takeInvalidCodeWord_decode_out (s : State) : (takeInvalidCodeWord .decode s).out = [] := rfl
@[simp] theorem takeInvalidCodeWord_decode_inp (s : State) : (takeInvalidCodeWord .decode s).inp = s.inp := rfl
@[simp] theorem takeInvalidCodeWord_decode_host (s : State) : (takeInvalidCodeWord .decode s).host = s.host := rfl
@[simp] theorem takeInvalidCodeWord_decode_freeIndex (s : State) : (takeInvalidCodeWord .decode s).freeIndex = s.freeIndex := rfl

@[simp] theorem takeInvalidCodeWord_decodeUnit_constructed (s : State) : (takeInvalidCodeWord .decodeUnit s).constructed = s.constructed := rfl
@[simp] theorem takeInvalidCodeWord_decodeUnit_busy (s : State) : (takeInvalidCodeWord .decodeUnit s).busy = false := rfl
@[simp] theorem takeInvalidCodeWord_decodeUnit_op (s : State) : (takeInvalidCodeWord .decodeUnit s).op = s.op := rfl
@[simp] theorem takeInvalidCodeWord_decodeUnit_nIn (s : State) : (takeInvalidCodeWord .decodeUnit s).nIn = s.nIn := rfl
@[simp] theorem takeInvalidCodeWord_decodeUnit_g (s : State) : (takeInvalidCodeWord .decodeUnit s).g = s.g := rfl
@[simp] theorem takeInvalidCodeWord_decodeUnit_outLen (s : State) : (takeInvalidCodeWord .decodeUnit s).outLen = s.outLen := rfl
@[simp] theorem takeInvalidCodeWord_decodeUnit_status (s : State) : (takeInvalidCodeWord .decodeUnit s).status = .invalidCodeWord := rfl
@[simp] theorem takeInvalidCodeWord_decodeUnit_done (s : State) : (takeInvalidCodeWord .decodeUnit s).done = some .decodeUnit := rfl
@[simp] theorem takeInvalidCodeWord_decodeUnit_unit (s : State) : (takeInvalidCodeWord .decodeUnit s).unit = { s.unit with duOk := false } := rfl
@[simp] theorem takeInvalidCodeWord_decodeUnit_out (s : State) : (takeInvalidCodeWord .decodeUnit s).out = s.out := rfl
@[simp] theorem takeInvalidCodeWord_decodeUnit_inp (s : State) : (takeInvalidCodeWord .decodeUnit s).inp = s.inp := rfl
@[simp] theorem takeInvalidCodeWord_decodeUnit_host (s : State) : (takeInvalidCodeWord .decodeUnit s).host = s.host := rfl
@[simp] theorem takeInvalidCodeWord_decodeUnit_freeIndex (s : State) : (takeInvalidCodeWord .decodeUnit s).freeIndex = s.freeIndex := rfl

@[simp] theorem applyReset_constructed (s : State) : (applyReset s).constructed = true := rfl
@[simp] theorem applyReset_busy (s : State) : (applyReset s).busy = false := rfl
@[simp] theorem applyReset_op (s : State) : (applyReset s).op = .encode := rfl
@[simp] theorem applyReset_nIn (s : State) : (applyReset s).nIn = 0 := rfl
@[simp] theorem applyReset_g (s : State) : (applyReset s).g = 0 := rfl
@[simp] theorem applyReset_outLen (s : State) : (applyReset s).outLen = 0 := rfl
@[simp] theorem applyReset_status (s : State) : (applyReset s).status = .ok := rfl
@[simp] theorem applyReset_done (s : State) : (applyReset s).done = none := rfl
@[simp] theorem applyReset_unit (s : State) : (applyReset s).unit = UnitPorts.initial := rfl
@[simp] theorem applyReset_out (s : State) : (applyReset s).out = if s.busy then [] else s.out := rfl
@[simp] theorem applyReset_inp (s : State) : (applyReset s).inp = s.inp := rfl
@[simp] theorem applyReset_host (s : State) : (applyReset s).host = s.host := rfl
@[simp] theorem applyReset_freeIndex (s : State) : (applyReset s).freeIndex = s.freeIndex := rfl

@[simp] theorem startBuffer_constructed (o : BufferOp) (s : State) : (startBuffer o s).constructed = s.constructed := rfl
@[simp] theorem startBuffer_busy (o : BufferOp) (s : State) : (startBuffer o s).busy = true := rfl
@[simp] theorem startBuffer_op (o : BufferOp) (s : State) : (startBuffer o s).op = o := rfl
@[simp] theorem startBuffer_nIn (o : BufferOp) (s : State) : (startBuffer o s).nIn = s.inp.inLen := rfl
@[simp] theorem startBuffer_g (o : BufferOp) (s : State) : (startBuffer o s).g = 0 := rfl
@[simp] theorem startBuffer_outLen (o : BufferOp) (s : State) : (startBuffer o s).outLen = 0 := rfl
@[simp] theorem startBuffer_status (o : BufferOp) (s : State) : (startBuffer o s).status = .ok := rfl
@[simp] theorem startBuffer_done (o : BufferOp) (s : State) : (startBuffer o s).done = s.done := rfl
@[simp] theorem startBuffer_unit (o : BufferOp) (s : State) : (startBuffer o s).unit = s.unit := rfl
@[simp] theorem startBuffer_out (o : BufferOp) (s : State) : (startBuffer o s).out = s.out := rfl
@[simp] theorem startBuffer_inp (o : BufferOp) (s : State) : (startBuffer o s).inp = s.inp := rfl
@[simp] theorem startBuffer_host (o : BufferOp) (s : State) : (startBuffer o s).host = s.host := rfl
@[simp] theorem startBuffer_freeIndex (o : BufferOp) (s : State) : (startBuffer o s).freeIndex = s.freeIndex := rfl

@[simp] theorem encodeGroup_constructed (x : G32) (s : State) : (encodeGroup x s).constructed = s.constructed := rfl
@[simp] theorem encodeGroup_busy (x : G32) (s : State) : (encodeGroup x s).busy = s.busy := rfl
@[simp] theorem encodeGroup_op (x : G32) (s : State) : (encodeGroup x s).op = s.op := rfl
@[simp] theorem encodeGroup_nIn (x : G32) (s : State) : (encodeGroup x s).nIn = s.nIn := rfl
@[simp] theorem encodeGroup_g (x : G32) (s : State) : (encodeGroup x s).g = s.g + 1 := rfl
@[simp] theorem encodeGroup_outLen (x : G32) (s : State) : (encodeGroup x s).outLen = s.outLen + 5 := rfl
@[simp] theorem encodeGroup_status (x : G32) (s : State) : (encodeGroup x s).status = s.status := rfl
@[simp] theorem encodeGroup_done (x : G32) (s : State) : (encodeGroup x s).done = s.done := rfl
@[simp] theorem encodeGroup_unit (x : G32) (s : State) : (encodeGroup x s).unit = s.unit := rfl
@[simp] theorem encodeGroup_out (x : G32) (s : State) : (encodeGroup x s).out = s.out.writeBytes (encodeOutAddr s.g) (bytesOfQ (encodeUnit x)) := rfl
@[simp] theorem encodeGroup_inp (x : G32) (s : State) : (encodeGroup x s).inp = s.inp := rfl
@[simp] theorem encodeGroup_host (x : G32) (s : State) : (encodeGroup x s).host = s.host := rfl
@[simp] theorem encodeGroup_freeIndex (x : G32) (s : State) : (encodeGroup x s).freeIndex = s.freeIndex := rfl

@[simp] theorem decodeGroup_constructed (x : G32) (s : State) : (decodeGroup x s).constructed = s.constructed := rfl
@[simp] theorem decodeGroup_busy (x : G32) (s : State) : (decodeGroup x s).busy = s.busy := rfl
@[simp] theorem decodeGroup_op (x : G32) (s : State) : (decodeGroup x s).op = s.op := rfl
@[simp] theorem decodeGroup_nIn (x : G32) (s : State) : (decodeGroup x s).nIn = s.nIn := rfl
@[simp] theorem decodeGroup_g (x : G32) (s : State) : (decodeGroup x s).g = s.g + 1 := rfl
@[simp] theorem decodeGroup_outLen (x : G32) (s : State) : (decodeGroup x s).outLen = s.outLen + 4 := rfl
@[simp] theorem decodeGroup_status (x : G32) (s : State) : (decodeGroup x s).status = s.status := rfl
@[simp] theorem decodeGroup_done (x : G32) (s : State) : (decodeGroup x s).done = s.done := rfl
@[simp] theorem decodeGroup_unit (x : G32) (s : State) : (decodeGroup x s).unit = s.unit := rfl
@[simp] theorem decodeGroup_out (x : G32) (s : State) : (decodeGroup x s).out = s.out.writeBytes (decodeOutAddr s.g) (bytesOfG x) := rfl
@[simp] theorem decodeGroup_inp (x : G32) (s : State) : (decodeGroup x s).inp = s.inp := rfl
@[simp] theorem decodeGroup_host (x : G32) (s : State) : (decodeGroup x s).host = s.host := rfl
@[simp] theorem decodeGroup_freeIndex (x : G32) (s : State) : (decodeGroup x s).freeIndex = s.freeIndex := rfl

@[simp] theorem finishBuffer_constructed (o : Operation) (s : State) : (finishBuffer o s).constructed = s.constructed := rfl
@[simp] theorem finishBuffer_busy (o : Operation) (s : State) : (finishBuffer o s).busy = false := rfl
@[simp] theorem finishBuffer_op (o : Operation) (s : State) : (finishBuffer o s).op = s.op := rfl
@[simp] theorem finishBuffer_nIn (o : Operation) (s : State) : (finishBuffer o s).nIn = s.nIn := rfl
@[simp] theorem finishBuffer_g (o : Operation) (s : State) : (finishBuffer o s).g = s.g := rfl
@[simp] theorem finishBuffer_outLen (o : Operation) (s : State) : (finishBuffer o s).outLen = s.outLen := rfl
@[simp] theorem finishBuffer_status (o : Operation) (s : State) : (finishBuffer o s).status = s.status := rfl
@[simp] theorem finishBuffer_done (o : Operation) (s : State) : (finishBuffer o s).done = some o := rfl
@[simp] theorem finishBuffer_unit (o : Operation) (s : State) : (finishBuffer o s).unit = s.unit := rfl
@[simp] theorem finishBuffer_out (o : Operation) (s : State) : (finishBuffer o s).out = s.out := rfl
@[simp] theorem finishBuffer_inp (o : Operation) (s : State) : (finishBuffer o s).inp = s.inp := rfl
@[simp] theorem finishBuffer_host (o : Operation) (s : State) : (finishBuffer o s).host = s.host := rfl
@[simp] theorem finishBuffer_freeIndex (o : Operation) (s : State) : (finishBuffer o s).freeIndex = s.freeIndex := rfl

@[simp] theorem present_constructed (s : State) : (present s).constructed = s.constructed := rfl
@[simp] theorem present_busy (s : State) : (present s).busy = s.busy := rfl
@[simp] theorem present_op (s : State) : (present s).op = s.op := rfl
@[simp] theorem present_nIn (s : State) : (present s).nIn = s.nIn := rfl
@[simp] theorem present_g (s : State) : (present s).g = s.g := rfl
@[simp] theorem present_outLen (s : State) : (present s).outLen = s.outLen := rfl
@[simp] theorem present_status (s : State) : (present s).status = s.status := rfl
@[simp] theorem present_done (s : State) : (present s).done = s.done := rfl
@[simp] theorem present_unit (s : State) : (present s).unit = s.unit := rfl
@[simp] theorem present_out (s : State) : (present s).out = s.out := rfl
@[simp] theorem present_inp (s : State) : (present s).inp = (nextPresentation s).1.inp := rfl
@[simp] theorem present_host (s : State) : (present s).host = (nextPresentation s).2 := rfl
@[simp] theorem present_freeIndex (s : State) : (present s).freeIndex = s.freeIndex := rfl

end Sys2Proof.Machine
end

