-- ==== Sys2Proof/Laws/Ops.lean ====
section
/-!
SUPPORT. What each shared operation and the step can answer, said once: the provers cite these instead of unfolding.
-/

namespace Sys2Proof.Machine

/-! ### Accepting a command -/

theorem accept_of_ready {s : State} (h : s.ready) (k : State → Answer) : accept s k = k (beginCommand s) := by
  simp [accept, h.1, h.2]

theorem accept_of_neverReset {s : State} (h : s.constructed = false) (k : State → Answer) :
    accept s k = .refused .neverReset := by
  simp [accept, h]

theorem accept_of_busy {s : State} (hc : s.constructed = true) (hb : s.busy = true) (k : State → Answer) :
    accept s k = .refused .commandWhileBusy := by
  simp [accept, hc, hb]

/-- A command that was accepted found the block ready, and its meaning ran on the begun state. -/
theorem accept_next {s t : State} {k : State → Answer} (h : accept s k = .next t) :
    s.ready ∧ k (beginCommand s) = .next t := by
  unfold accept at h
  split_ifs at h with hc hb
  exact ⟨⟨hc, by simpa using hb⟩, h⟩

/-- Starting only: the begun state, started. -/
theorem startOnly_next {o : BufferOp} {s t : State} (h : startOnly o s = .next t) :
    s.ready ∧ t = startBuffer o (beginCommand s) := by
  obtain ⟨hr, hk⟩ := accept_next h
  exact ⟨hr, by simpa using hk.symm⟩

/-- A lookup in the encode table on a ready block. -/
theorem lookEnc_of_ready {s : State} (h : s.ready) (n : Nibble) :
    lookEnc n s = .next (deliverEncData (encRom n) (beginCommand s)) :=
  accept_of_ready h _

/-- A lookup in the decode table on a ready block. -/
theorem lookDec_of_ready {s : State} (h : s.ready) (v : CodeWord) :
    lookDec v s = .next (deliverDecEntry (decRom v) (beginCommand s)) :=
  accept_of_ready h _

/-! ### The steps of a buffer operation -/

/-- Everything a step of a busy ENCODE can answer (R134). -/
theorem encodeStep_next {s t : State} (h : encodeStep s = .next t) :
    (∃ x, s.g < encodeGroups s.nIn ∧ s.inp.inMem.read4 (encodeInAddr s.g) = some x ∧ t = encodeGroup x s) ∨
    (s.g = encodeGroups s.nIn ∧ t = finishBuffer .encode s) := by
  unfold encodeStep at h
  split_ifs at h with h1 h2
  · split at h
    · rename_i x hx
      exact .inl ⟨x, h1, hx, by simpa using h.symm⟩
    · exact absurd h (by simp)
  · exact .inr ⟨h2, by simpa using h.symm⟩

/-- Everything a step of a busy DECODE can answer (R145). -/
theorem decodeStep_next {s t : State} (h : decodeStep s = .next t) :
    (∃ q x, s.g < decodeGroups s.nIn ∧ s.inp.inMem.read5 (decodeInAddr s.g) = some q ∧ decodeUnit q = some x ∧
      t = decodeGroup x s) ∨
    (∃ q, s.g < decodeGroups s.nIn ∧ s.inp.inMem.read5 (decodeInAddr s.g) = some q ∧ decodeUnit q = none ∧
      t = takeInvalidCodeWord .decode s) ∨
    (s.g = decodeGroups s.nIn ∧ t = finishBuffer .decode s) := by
  unfold decodeStep at h
  split_ifs at h with h1 h2
  · split at h
    · rename_i q hq
      split at h
      · rename_i x hx
        exact .inl ⟨q, x, h1, hq, hx, by simpa using h.symm⟩
      · rename_i hx
        exact .inr (.inl ⟨q, h1, hq, hx, by simpa using h.symm⟩)
    · exact absurd h (by simp)
  · exact .inr (.inr ⟨h2, by simpa using h.symm⟩)

theorem encodeStep_group {s : State} {x : G32} (hg : s.g < encodeGroups s.nIn)
    (hx : s.inp.inMem.read4 (encodeInAddr s.g) = some x) : encodeStep s = .next (encodeGroup x s) := by
  simp [encodeStep, hg, hx]

theorem encodeStep_finish {s : State} (hg : s.g = encodeGroups s.nIn) :
    encodeStep s = .next (finishBuffer .encode s) := by
  simp [encodeStep, hg]

theorem decodeStep_groupOk {s : State} {q : Q40} {x : G32} (hg : s.g < decodeGroups s.nIn)
    (hq : s.inp.inMem.read5 (decodeInAddr s.g) = some q) (hx : decodeUnit q = some x) :
    decodeStep s = .next (decodeGroup x s) := by
  simp [decodeStep, hg, hq, hx]

theorem decodeStep_groupFail {s : State} {q : Q40} (hg : s.g < decodeGroups s.nIn)
    (hq : s.inp.inMem.read5 (decodeInAddr s.g) = some q) (hx : decodeUnit q = none) :
    decodeStep s = .next (takeInvalidCodeWord .decode s) := by
  simp [decodeStep, hg, hq, hx]

theorem decodeStep_finish {s : State} (hg : s.g = decodeGroups s.nIn) :
    decodeStep s = .next (finishBuffer .decode s) := by
  simp [decodeStep, hg]

/-- A busy block's own step never refuses. -/
theorem busyStep_ne_refused (s : State) (r : Refusal) : busyStep s ≠ .refused r := by
  unfold busyStep encodeStep decodeStep
  repeat' split
  all_goals simp

/-! ### Running to `done` -/

@[simp] theorem runToDone_zero (s : State) : runToDone 0 s = .next s := rfl

theorem runToDone_of_idle {s : State} (h : s.busy = false) (n : Nat) : runToDone n s = .next s := by
  cases n <;> simp [runToDone, h]

/-- One more step of a busy block, then the rest of the run. -/
theorem runToDone_succ {s t : State} (hb : s.busy = true) (ht : busyStep s = .next t) (n : Nat) :
    runToDone (n + 1) s = runToDone n t := by
  simp [runToDone, hb, ht]

/-- A property that the block's own steps keep holds at the end of a run to `done`. -/
theorem runToDone_keeps {P : State → Prop}
    (hstep : ∀ s t, s.busy = true → P s → busyStep s = .next t → P t) {n : Nat} {s t : State} (hs : P s)
    (h : runToDone n s = .next t) : P t := by
  induction n generalizing s with
  | zero => simp at h; exact h ▸ hs
  | succ n ih =>
    unfold runToDone at h
    split_ifs at h with hb
    · cases hbs : busyStep s with
      | next u => rw [hbs] at h; exact ih (hstep s u hb hs hbs) h
      | fault r => rw [hbs] at h; exact absurd h (by simp)
      | refused r => rw [hbs] at h; exact absurd h (by simp)
    · simp at h; exact h ▸ hs

/-! ### The ports -/

/-- The idle command port presents NOP (R170). -/
@[simp] theorem decodeWord_idle : decodeWord idleSelector = some .nop := by decide

/-- The host's move falls on an idle block, or on a busy one if it is `atOnce`. -/
theorem nextPresentation_head {s : State} {p : Presentation} {rest : List Presentation} (h : s.host = p :: rest)
    (hp : s.busy = false ∨ p.atOnce = true) : nextPresentation s = (p, rest) := by
  rcases hp with hp | hp <;> simp [nextPresentation, h, hp]

theorem nextPresentation_nil {s : State} (h : s.host = []) : nextPresentation s = (idlePresentation s, []) := by
  simp [nextPresentation, h]

/-- What a presentation can be: idle ports, or the host's next move. -/
theorem nextPresentation_cases (s : State) :
    ((nextPresentation s).1 = idlePresentation s ∧ (nextPresentation s).2 = s.host) ∨
    (∃ p rest, s.host = p :: rest ∧ nextPresentation s = (p, rest)) := by
  unfold nextPresentation
  split
  · rename_i h; exact .inl ⟨rfl, h.symm⟩
  · rename_i p rest h
    split_ifs
    · exact .inl ⟨rfl, h.symm⟩
    · exact .inr ⟨p, rest, h, rfl⟩

/-! ### The step -/

/-- Everything a step that goes on can be: an instruction run on the presented state; a buffer operation started on it; or a
busy block's own step, its operands held by the host. -/
theorem step_next {s t : State} (h : step s = .next t) :
    (∃ i, decodeWord (nextPresentation s).1.inp.sel = some i ∧ exec i (present s) = .next t) ∨
    (∃ o, startOnly o (present s) = .next t) ∨
    (s.busy = true ∧ inputHeld s.inp (nextPresentation s).1.inp = true ∧ busyStep (present s) = .next t) := by
  unfold step fetch at h
  simp only [] at h
  cases hd : decodeWord (nextPresentation s).1.inp.sel with
  | none => rw [hd] at h; exact absurd h (by simp)
  | some i =>
    rw [hd] at h
    by_cases hn : i = .nop
    · subst hn
      simp only [] at h
      split_ifs at h with hb hk
      · exact .inr (.inr ⟨hb, hk, h⟩)
      · exact .inl ⟨_, rfl, h⟩
    · by_cases he : i = .encode
      · subst he
        simp only [] at h
        split_ifs at h with hs
        · exact .inr (.inl ⟨_, h⟩)
        · exact .inl ⟨_, rfl, h⟩
      · by_cases hdc : i = .decode
        · subst hdc
          simp only [] at h
          split_ifs at h with hs
          · exact .inr (.inl ⟨_, h⟩)
          · exact .inl ⟨_, rfl, h⟩
        · refine .inl ⟨i, rfl, ?_⟩
          cases i <;> first | exact absurd rfl hn | exact absurd rfl he | exact absurd rfl hdc | exact h

/-! ### exec -/

/-- Every instruction but CONSTRUCT, NOP and the reserved command is a command that has to be accepted. -/
theorem exec_eq_accept {i : Instr} (h1 : i ≠ .construct) (h2 : i ≠ .nop) (h3 : i ≠ .reserved) :
    ∃ k : State → Answer, ∀ s, exec i s = accept s k := by
  cases i
  case construct => exact absurd rfl h1
  case nop => exact absurd rfl h2
  case reserved => exact absurd rfl h3
  case encode => exact ⟨_, fun s => show execEncode s = _ from rfl⟩
  case decode => exact ⟨_, fun s => show execDecode s = _ from rfl⟩
  case encodeUnit => exact ⟨_, fun s => show execEncodeUnit s = _ from rfl⟩
  case decodeUnit => exact ⟨_, fun s => show execDecodeUnit s = _ from rfl⟩
  case encLut => exact ⟨_, fun s => show execEncLut s = _ from rfl⟩
  case decLut => exact ⟨_, fun s => show execDecLut s = _ from rfl⟩
  all_goals
    first
    | exact ⟨_, fun s => show lookEnc _ s = _ from rfl⟩
    | exact ⟨_, fun s => show lookDec _ s = _ from rfl⟩

/-- What an instruction can answer: reset; the state as it is; one result delivered on the begun state; or a buffer
operation started on the begun state and run to its `done`. -/
theorem exec_next_cases {i : Instr} {s t : State} (h : exec i s = .next t) :
    (i = .construct ∧ t = applyReset s) ∨ (i = .nop ∧ t = s) ∨
    (s.ready ∧
      ((∃ c, t = deliverEncData c (beginCommand s)) ∨ (∃ e, t = deliverDecEntry e (beginCommand s)) ∨
       (i = .encodeUnit ∧ t = deliverEuOut (encodeUnit s.inp.euIn) (beginCommand s)) ∨
       (i = .decodeUnit ∧ ∃ x, decodeUnit s.inp.duIn = some x ∧ t = deliverDuOut x (beginCommand s)) ∨
       (i = .decodeUnit ∧ decodeUnit s.inp.duIn = none ∧ t = takeInvalidCodeWord .decodeUnit (beginCommand s)) ∨
       (i = .encode ∧ runToDone (encodeGroups s.inp.inLen + 1) (startBuffer .encode (beginCommand s)) = .next t) ∨
       (i = .decode ∧ runToDone (decodeGroups s.inp.inLen + 1) (startBuffer .decode (beginCommand s)) = .next t))) := by
  cases i
  case construct =>
    have h' : execConstruct s = .next t := h
    exact .inl ⟨rfl, by simpa [execConstruct] using h'.symm⟩
  case nop =>
    have h' : execNop s = .next t := h
    exact .inr (.inl ⟨rfl, by simpa [execNop] using h'.symm⟩)
  case reserved =>
    have h' : execReserved s = .next t := h
    exact absurd h' (by simp [execReserved])
  case encode =>
    have h' : execEncode s = .next t := h
    obtain ⟨hr, hk⟩ := accept_next h'
    exact .inr (.inr ⟨hr, .inr (.inr (.inr (.inr (.inr (.inl ⟨rfl, hk⟩)))))⟩)
  case decode =>
    have h' : execDecode s = .next t := h
    obtain ⟨hr, hk⟩ := accept_next h'
    exact .inr (.inr ⟨hr, .inr (.inr (.inr (.inr (.inr (.inr ⟨rfl, hk⟩)))))⟩)
  case encodeUnit =>
    have h' : execEncodeUnit s = .next t := h
    obtain ⟨hr, hk⟩ := accept_next h'
    exact .inr (.inr ⟨hr, .inr (.inr (.inl ⟨rfl, (Host.Outcome.next.inj hk).symm⟩))⟩)
  case decodeUnit =>
    have h' : execDecodeUnit s = .next t := h
    obtain ⟨hr, hk⟩ := accept_next h'
    refine .inr (.inr ⟨hr, .inr (.inr (.inr ?_))⟩)
    simp only [beginCommand_inp] at hk
    cases hd : decodeUnit s.inp.duIn with
    | some x => rw [hd] at hk; exact .inl ⟨rfl, x, rfl, (Host.Outcome.next.inj hk).symm⟩
    | none => rw [hd] at hk; exact .inr (.inl ⟨rfl, rfl, (Host.Outcome.next.inj hk).symm⟩)
  case encLut =>
    have h' : execEncLut s = .next t := h
    obtain ⟨hr, hk⟩ := accept_next h'
    exact .inr (.inr ⟨hr, .inl ⟨_, (Host.Outcome.next.inj hk).symm⟩⟩)
  case decLut =>
    have h' : execDecLut s = .next t := h
    obtain ⟨hr, hk⟩ := accept_next h'
    exact .inr (.inr ⟨hr, .inr (.inl ⟨_, (Host.Outcome.next.inj hk).symm⟩)⟩)
  all_goals
    first
    | (have h' : lookEnc _ s = .next t := h
       obtain ⟨hr, hk⟩ := accept_next h'
       exact .inr (.inr ⟨hr, .inl ⟨_, (Host.Outcome.next.inj hk).symm⟩⟩))
    | (have h' : lookDec _ s = .next t := h
       obtain ⟨hr, hk⟩ := accept_next h'
       exact .inr (.inr ⟨hr, .inr (.inl ⟨_, (Host.Outcome.next.inj hk).symm⟩)⟩))

/-- Every instruction other than CONSTRUCT and NOP that answers a next state found the block ready. -/
theorem exec_next_ready {i : Instr} {s t : State} (h : exec i s = .next t) :
    i = .construct ∨ i = .nop ∨ s.ready := by
  rcases exec_next_cases h with ⟨hi, -⟩ | ⟨hi, -⟩ | ⟨hr, -⟩
  · exact .inl hi
  · exact .inr (.inl hi)
  · exact .inr (.inr hr)

end Sys2Proof.Machine
end

