-- ==== Sys2Proof/Laws/PerInstr.lean ====
section
/-!
SUPPORT. The per-instruction family EncodesItsRow: the selector byte the encoder writes carries the bits of the instruction's
row in spec/opcode_table.json, under the table's own mask.
-/

/-- The bits under the row's mask are the row's match. -/
def Sys2Proof.Laws.EncodesItsRow.Statement (i : Sys2Proof.Instr) : Prop :=
  (Sys2Proof.encodeWord i).toNat &&& (Sys2Proof.tableRow i).1 = (Sys2Proof.tableRow i).2

namespace Sys2Proof.Laws.EncodesItsRow

theorem construct : Statement .construct := rfl
theorem nop : Statement .nop := rfl
theorem encode : Statement .encode := rfl
theorem decode : Statement .decode := rfl
theorem encodeUnit : Statement .encodeUnit := rfl
theorem decodeUnit : Statement .decodeUnit := rfl
theorem encLut : Statement .encLut := rfl
theorem decLut : Statement .decLut := rfl
theorem reserved : Statement .reserved := rfl
theorem encRom0 : Statement .encRom0 := rfl
theorem encRom1 : Statement .encRom1 := rfl
theorem encRom2 : Statement .encRom2 := rfl
theorem encRom3 : Statement .encRom3 := rfl
theorem encRom4 : Statement .encRom4 := rfl
theorem encRom5 : Statement .encRom5 := rfl
theorem encRom6 : Statement .encRom6 := rfl
theorem encRom7 : Statement .encRom7 := rfl
theorem encRom8 : Statement .encRom8 := rfl
theorem encRom9 : Statement .encRom9 := rfl
theorem encRomA : Statement .encRomA := rfl
theorem encRomB : Statement .encRomB := rfl
theorem encRomC : Statement .encRomC := rfl
theorem encRomD : Statement .encRomD := rfl
theorem encRomE : Statement .encRomE := rfl
theorem encRomF : Statement .encRomF := rfl
theorem decRom00 : Statement .decRom00 := rfl
theorem decRom01 : Statement .decRom01 := rfl
theorem decRom02 : Statement .decRom02 := rfl
theorem decRom03 : Statement .decRom03 := rfl
theorem decRom04 : Statement .decRom04 := rfl
theorem decRom05 : Statement .decRom05 := rfl
theorem decRom06 : Statement .decRom06 := rfl
theorem decRom07 : Statement .decRom07 := rfl
theorem decRom08 : Statement .decRom08 := rfl
theorem decRom09 : Statement .decRom09 := rfl
theorem decRom0A : Statement .decRom0A := rfl
theorem decRom0B : Statement .decRom0B := rfl
theorem decRom0C : Statement .decRom0C := rfl
theorem decRom0D : Statement .decRom0D := rfl
theorem decRom0E : Statement .decRom0E := rfl
theorem decRom0F : Statement .decRom0F := rfl
theorem decRom10 : Statement .decRom10 := rfl
theorem decRom11 : Statement .decRom11 := rfl
theorem decRom12 : Statement .decRom12 := rfl
theorem decRom13 : Statement .decRom13 := rfl
theorem decRom14 : Statement .decRom14 := rfl
theorem decRom15 : Statement .decRom15 := rfl
theorem decRom16 : Statement .decRom16 := rfl
theorem decRom17 : Statement .decRom17 := rfl
theorem decRom18 : Statement .decRom18 := rfl
theorem decRom19 : Statement .decRom19 := rfl
theorem decRom1A : Statement .decRom1A := rfl
theorem decRom1B : Statement .decRom1B := rfl
theorem decRom1C : Statement .decRom1C := rfl
theorem decRom1D : Statement .decRom1D := rfl
theorem decRom1E : Statement .decRom1E := rfl
theorem decRom1F : Statement .decRom1F := rfl

end Sys2Proof.Laws.EncodesItsRow
end

