-- ==== Sys2Proof/Tests/Slice0.lean ====
section
/-!
SUPPORT. The model's own tests. Expected results are the spec's: the opcode table and R58 for the selector words, R75 to
R122 for the tables, the vectors S1 to S4, the derived vectors and the programs P1 to P5 of 95_test_vectors.md. Each
statement that has hypotheses has a witness here (`test_witness_…`): concrete operands that meet all of them together.
-/

namespace Sys2Proof.Tests

open Sys2Proof.Machine

/-- The answer is a next state with this property. -/
def got (r : Answer) (p : State → Bool) : Bool :=
  match r with
  | .next t => p t
  | _ => false

/-- A test that an answer is a next state gives that state. -/
theorem got_next {r : Answer} {p : State → Bool} (h : got r p = true) : ∃ t, r = .next t ∧ p t = true := by
  cases r with
  | next t => exact ⟨t, rfl, h⟩
  | fault r => exact absurd h (by simp [got])
  | refused r => exact absurd h (by simp [got])

/-- A block just reset, with these bytes in IN. -/
def withIn (bs : List Byte) : State :=
  { State.reset with inp := { Inputs.initial with inLen := bs.length, inMem := Memory.ofBytes 0 bs } }

/-- A host move with these bytes in IN. -/
def move (sel : Byte) (atOnce stepwise : Bool) (bs : List Byte) : Presentation :=
  { inp := { (withIn bs).inp with sel := sel }, atOnce := atOnce, stepwise := stepwise }

/-- A block running a buffer operation, nothing processed yet. -/
def running (o : BufferOp) (bs : List Byte) : State :=
  { withIn bs with busy := true, op := o, nIn := bs.length }

/-- The bytes of S1, and the bytes they encode to. -/
def rawS1 : List Byte := [0x08, 0x01, 0x00, 0x01, 0x30, 0x30, 0x00, 0x00]
def codedS1 : List Byte := [0x52, 0x54, 0xB5, 0x29, 0x4B, 0x9A, 0xA6, 0xA5, 0x29, 0x4A]
/-- The bytes of S3. -/
def badS3 : List Byte := [0xFF, 0xFF, 0xFF, 0xFF, 0xFF]

/-! ### Well-formedness -/

theorem test_wellFormed_refuses_the_reserved_command : Instr.wellFormed .reserved = false := by decide
theorem test_wellFormed_accepts_commands_and_lookups :
    Instr.wellFormed .construct = true ∧ Instr.wellFormed .encode = true ∧ Instr.wellFormed .encRom0 = true ∧
    Instr.wellFormed .decRom1F = true := by decide

/-! ### Words written out from the encoding tables -/

/-- R58: bit 3 is rst, bits 2:0 are cmd; cmd is ignored while rst = 1. -/
theorem test_decode_commands :
    decodeWord 0b00001000#8 = some .construct ∧
    decodeWord 0b00001111#8 = some .construct ∧
    decodeWord 0b00000000#8 = some .nop ∧
    decodeWord 0b00000001#8 = some .encode ∧
    decodeWord 0b00000010#8 = some .decode ∧
    decodeWord 0b00000011#8 = some .encodeUnit ∧
    decodeWord 0b00000100#8 = some .decodeUnit ∧
    decodeWord 0b00000101#8 = some .encLut ∧
    decodeWord 0b00000110#8 = some .decLut ∧
    decodeWord 0b00000111#8 = some .reserved := by decide
/-- ENC_ROM rows: the 4 index bits, tag 0100 (log 3). -/
theorem test_decode_encode_table_rows :
    decodeWord 0b01000000#8 = some .encRom0 ∧
    decodeWord 0b01000001#8 = some .encRom1 ∧
    decodeWord 0b01000010#8 = some .encRom2 ∧
    decodeWord 0b01000011#8 = some .encRom3 ∧
    decodeWord 0b01000100#8 = some .encRom4 ∧
    decodeWord 0b01000101#8 = some .encRom5 ∧
    decodeWord 0b01000110#8 = some .encRom6 ∧
    decodeWord 0b01000111#8 = some .encRom7 ∧
    decodeWord 0b01001000#8 = some .encRom8 ∧
    decodeWord 0b01001001#8 = some .encRom9 ∧
    decodeWord 0b01001010#8 = some .encRomA ∧
    decodeWord 0b01001011#8 = some .encRomB ∧
    decodeWord 0b01001100#8 = some .encRomC ∧
    decodeWord 0b01001101#8 = some .encRomD ∧
    decodeWord 0b01001110#8 = some .encRomE ∧
    decodeWord 0b01001111#8 = some .encRomF := by decide
/-- DEC_ROM rows below 16: the low 4 index bits, tag 1000 (log 3). -/
theorem test_decode_low_decode_table_rows :
    decodeWord 0b10000000#8 = some .decRom00 ∧
    decodeWord 0b10000001#8 = some .decRom01 ∧
    decodeWord 0b10000010#8 = some .decRom02 ∧
    decodeWord 0b10000011#8 = some .decRom03 ∧
    decodeWord 0b10000100#8 = some .decRom04 ∧
    decodeWord 0b10000101#8 = some .decRom05 ∧
    decodeWord 0b10000110#8 = some .decRom06 ∧
    decodeWord 0b10000111#8 = some .decRom07 ∧
    decodeWord 0b10001000#8 = some .decRom08 ∧
    decodeWord 0b10001001#8 = some .decRom09 ∧
    decodeWord 0b10001010#8 = some .decRom0A ∧
    decodeWord 0b10001011#8 = some .decRom0B ∧
    decodeWord 0b10001100#8 = some .decRom0C ∧
    decodeWord 0b10001101#8 = some .decRom0D ∧
    decodeWord 0b10001110#8 = some .decRom0E ∧
    decodeWord 0b10001111#8 = some .decRom0F := by decide
/-- DEC_ROM rows from 16 on: the 5 index bits as the table has them. -/
theorem test_decode_high_decode_table_rows :
    decodeWord 0b00010000#8 = some .decRom10 ∧
    decodeWord 0b00010001#8 = some .decRom11 ∧
    decodeWord 0b00010010#8 = some .decRom12 ∧
    decodeWord 0b00010011#8 = some .decRom13 ∧
    decodeWord 0b00010100#8 = some .decRom14 ∧
    decodeWord 0b00010101#8 = some .decRom15 ∧
    decodeWord 0b00010110#8 = some .decRom16 ∧
    decodeWord 0b00010111#8 = some .decRom17 ∧
    decodeWord 0b00011000#8 = some .decRom18 ∧
    decodeWord 0b00011001#8 = some .decRom19 ∧
    decodeWord 0b00011010#8 = some .decRom1A ∧
    decodeWord 0b00011011#8 = some .decRom1B ∧
    decodeWord 0b00011100#8 = some .decRom1C ∧
    decodeWord 0b00011101#8 = some .decRom1D ∧
    decodeWord 0b00011110#8 = some .decRom1E ∧
    decodeWord 0b00011111#8 = some .decRom1F := by decide
/-- Bytes that are no row of the table, and no byte at all, are rejected by name. -/
theorem test_decode_rejects_what_is_no_row :
    decode [0b00100000#8] = .error (.noSuchRow 0b00100000#8) ∧ decode [0b11111111#8] = .error (.noSuchRow 0xFF#8) ∧
    decode [] = .error .noSelector ∧ decodeTableWord 8 0x57 = none := by decide
theorem test_encode_writes_the_table_words :
    encode .encode = [0x01] ∧ encode .construct = [0x08] ∧ encode .encRom5 = [0x45] ∧ encode .decRom1E = [0x1E] := by
  decide

/-! ### Tables, units, buffers -/

/-- 95_test_vectors.md section 2, in nibble order. -/
theorem test_encode_table_in_order :
    (List.range 16).map (fun n => (encRom (BitVec.ofNat 4 n)).toNat) =
      [0x0A, 0x0B, 0x12, 0x13, 0x0E, 0x0F, 0x16, 0x17, 0x09, 0x19, 0x1A, 0x1B, 0x0D, 0x1D, 0x1E, 0x15] := by
  decide
/-- 95_test_vectors.md section 2, in index order; 99 stands for INVALID. -/
theorem test_decode_table_in_order :
    (List.range 32).map (fun v => ((decRom (BitVec.ofNat 5 v)).map BitVec.toNat).getD 99) =
      [99, 99, 99, 99, 99, 99, 99, 99, 99, 8, 0, 1, 99, 12, 4, 5, 99, 99, 2, 3, 99, 15, 6, 7, 99, 9, 10, 11, 99, 13, 14, 99] := by
  decide
/-- 95_test_vectors.md section 3: nibbles 0 to 7, 8 to F, only the first, only the last. -/
theorem test_encode_unit_vectors :
    encodeUnit 0x01234567 = 0x52E5373ED7 ∧ encodeUnit 0x89ABCDEF = 0x4E75B6F7D5 ∧
    encodeUnit 0x80000000 = 0x4A94A5294A ∧ encodeUnit 0x00000001 = 0x5294A5294B ∧
    encodeUnit 0xA55AC33C = 0xD3DFA6CE6D := by decide
/-- 95_test_vectors.md section 3: last, first and straddling field invalid; valid nibble 0; one bit away. -/
theorem test_decode_unit_vectors :
    decodeUnit 0x5254B5294B = some 0x08010001 ∧ decodeUnit 0x5254B52940 = none ∧ decodeUnit 0x0254B5294B = none ∧
    decodeUnit 0x5254B4294B = none ∧ decodeUnit 0x5294A5294A = some 0 ∧ decodeUnit 0x52D4B5294B = some 0x01010001 := by
  decide
/-- S1, S4, and truncation. -/
theorem test_encode_buffers :
    encodeBytes rawS1 = codedS1 ∧ encodeBytes [] = [] ∧ encodeBytes [0x11, 0x22, 0x33] = [] ∧
    encodeBytes [0x11, 0x22, 0x33, 0x44, 0x55] = [0x5A, 0xE5, 0x29, 0xCD, 0xCE] := by decide
/-- S2, S3, S4, truncation of invalid bits, and a failure in the second group. -/
theorem test_decode_buffers :
    decodeBytes codedS1 = some rawS1 ∧ decodeBytes badS3 = none ∧ decodeBytes [] = some [] ∧
    decodeBytes [0xFF, 0xFF, 0xFF, 0xFF] = some [] ∧ decodeBytes (codedS1.take 5 ++ badS3) = none := by decide
/-- 95_test_vectors.md section 5: the packer's and the unpacker's bytes and words on the first group of S1. -/
theorem test_packer_and_unpacker_traces :
    packEmit 0 0 [0b01010, 0b01001, 0b01010, 0b01011, 0b01010, 0b01010, 0b01010, 0b01011] = codedS1.take 5 ∧
    packHeld 0 0 [0b01010, 0b01001, 0b01010] = (0b0101010, 7) ∧
    unpackFeed 0 0 [0x52, 0x54] = ([0b01010, 0b01001, 0b01010], 0, 1) ∧
    unpackFeed 0 0 (codedS1.take 5) =
      ([0b01010, 0b01001, 0b01010, 0b01011, 0b01010, 0b01010, 0b01010, 0b01011], 0, 0) := by decide

/-! ### Memory -/

theorem test_reset_memory_is_canonical : State.reset.out.wf = true ∧ State.reset.inp.inMem.wf = true := by decide
theorem test_write_keeps_addresses_rising :
    (Memory.write (Memory.write (Memory.write [] 5 0xAA) 2 0xBB) 5 0xCC) = [(2, 0xBB), (5, 0xCC)] ∧
    Memory.wf [(5, 0xAA), (2, 0xBB)] = false := by decide

/-! ### Steps -/

/-- P1: ENCODE of S1 writes S1's bytes, out_len = 10, status = 0, n_in = 8, g = 2. -/
theorem test_encode_runs_S1 :
    got (exec .encode (withIn rawS1)) (fun t => t.out.slice 0 10 == some codedS1 && t.outLen == 10 && t.status == .ok &&
      t.nIn == 8 && t.g == 2 && t.busy == false && t.done == some .encode) = true := by decide
/-- P2: DECODE of the bytes of S1. -/
theorem test_decode_runs_S2 :
    got (exec .decode (withIn codedS1)) (fun t => t.out.slice 0 8 == some rawS1 && t.outLen == 8 && t.status == .ok &&
      t.done == some .decode) = true := by decide
/-- P3, operation 2: the second group fails, no byte is returned. -/
theorem test_decode_fails_as_P3 :
    got (exec .decode (withIn ([0x5A, 0xE5, 0x29, 0xCD, 0xCE] ++ badS3 ++ [0x7B, 0xED, 0x6B, 0xDD, 0x29])))
      (fun t => t.outLen == 0 && t.status == .invalidCodeWord && t.nIn == 15 && t.out == [] && t.busy == false) = true := by
  decide
/-- IN shorter than in_len: no byte to read. -/
theorem test_encode_faults_where_IN_holds_no_byte :
    (match exec .encode { withIn rawS1 with inp := { (withIn rawS1).inp with inLen := 12 } } with
      | .fault (.inByteAbsent 8) => true
      | _ => false) = true := by decide
/-- P5, lines 6 to 8. -/
theorem test_encode_unit_runs :
    got (exec .encodeUnit { State.reset with inp := { Inputs.initial with euIn := 0x89ABCDEF } })
      (fun t => readEuOut t == some 0x4E75B6F7D5 && t.status == .ok) = true := by decide
theorem test_decode_unit_runs :
    got (exec .decodeUnit { State.reset with inp := { Inputs.initial with duIn := 0x4E75B6F7D5 } })
      (fun t => readDuOk t == some true && readDuOut t == some 0x89ABCDEF && t.status == .ok) = true := by decide
theorem test_decode_unit_fails :
    got (exec .decodeUnit { State.reset with inp := { Inputs.initial with duIn := 0x4E75B6F7D4 } })
      (fun t => readDuOk t == some false && readDuOut t == none && t.status == .invalidCodeWord) = true := by
  decide
/-- P5, lines 2 to 5. -/
theorem test_enc_lut_runs :
    got (exec .encLut { State.reset with inp := { Inputs.initial with encAddr := 0x8 } })
      (fun t => readEncData t == some 0b01001) = true := by decide
theorem test_dec_lut_runs_on_a_code_word :
    got (exec .decLut { State.reset with inp := { Inputs.initial with decAddr := 0b01010 } })
      (fun t => readDecValid t == some true && readDecData t == some 0) = true := by decide
theorem test_dec_lut_runs_on_an_invalid_word :
    got (exec .decLut { State.reset with inp := { Inputs.initial with decAddr := 0b01000 } })
      (fun t => readDecValid t == some false && readDecData t == none && t.status == .ok) = true := by decide
/-- R83, R103: a table row is the lookup of its own index, whatever the address ports hold. -/
theorem test_table_rows_run :
    got (exec .encRom8 State.reset) (fun t => readEncData t == some 0b01001) = true ∧
    got (exec .decRom0D State.reset) (fun t => readDecData t == some 0xC) = true := by decide
/-- P5, line 9: NOP leaves status at 1. -/
theorem test_nop_keeps_status :
    got (exec .nop { State.reset with status := .invalidCodeWord, done := some .decodeUnit })
      (fun t => readStatus t == some .invalidCodeWord) = true := by decide
/-- R182: reset while busy gives no done and OUT no value; reset of an idle block keeps OUT. -/
theorem test_construct_while_busy_drops_OUT :
    got (exec .construct { running .encode rawS1 with out := [(0, 1)] }) (fun t => t.out == [] && t.done == none) = true := by
  decide
theorem test_construct_while_idle_keeps_OUT :
    got (exec .construct { State.powerOn with out := [(0, 1)] }) (fun t => t.out == [(0, 1)] && t.constructed) = true := by
  decide
/-- Log 26: reset presented with another IN to a busy block abandons the operation; log 28: without reset, a change of IN
above in_len alone is refused. -/
theorem test_changed_IN_while_busy :
    got (step { running .encode rawS1 with host := [move 0x08 true false badS3] })
      (fun t => t.busy == false && t.done == none && t.inp.inLen == 5) = true ∧
    (let s := running .encode rawS1
     let p := { s.inp with inMem := Memory.ofBytes 0 (rawS1 ++ [0x55]) }
     inputHeld s.inp p = false ∧ p.inLen = s.inp.inLen ∧ p.inMem.slice 0 8 = s.inp.inMem.slice 0 8) := by
  decide

/-- P1 in steps: what START leaves, and what the first GROUP leaves. -/
theorem test_start_and_first_group_of_P1 :
    got (step { State.reset with host := [move 0x01 false true rawS1] })
      (fun t => t.busy && t.op == .encode && t.nIn == 8 && t.g == 0 && t.outLen == 0 && t.out == []) = true ∧
    got (step (running .encode rawS1))
      (fun t => t.busy && t.g == 1 && t.outLen == 5 && t.out.slice 0 5 == some (codedS1.take 5)) = true := by
  decide

/-! ### Witnesses of the statements' hypotheses -/

/-- The ready state and its IN, used by the completion statements. -/
theorem test_witness_ready : State.reset.ready ∧ (withIn rawS1).ready ∧ (withIn codedS1).ready ∧ (withIn badS3).ready :=
  ⟨⟨rfl, rfl⟩, ⟨rfl, rfl⟩, ⟨rfl, rfl⟩, ⟨rfl, rfl⟩⟩

theorem test_witness_DecodedWordHasItsRowsBits : decodeWord 0b00011110#8 = some .decRom1E := by decide

theorem test_witness_StepRunsTheDecodedInstruction :
    let s := { withIn rawS1 with host := [move 0x01 false false rawS1] }
    decodeWord (nextPresentation s).1.inp.sel = some .encode ∧ (s.busy = false ∨ Instr.encode ≠ .nop) ∧
    ((nextPresentation s).1.stepwise = false ∨ (Instr.encode ≠ .encode ∧ Instr.encode ≠ .decode)) := by
  decide

theorem test_witness_StepWhereNoInstructionRuns_start :
    (let s := { State.reset with host := [move 0x01 false true rawS1] }
     decodeWord (nextPresentation s).1.inp.sel = some .encode ∧ (nextPresentation s).1.stepwise = true) ∧
    (let s := { State.reset with host := [move 0x02 false true codedS1] }
     decodeWord (nextPresentation s).1.inp.sel = some .decode ∧ (nextPresentation s).1.stepwise = true) := by
  decide
theorem test_witness_StepWhereNoInstructionRuns_goOn :
    let s := running .encode rawS1
    decodeWord (nextPresentation s).1.inp.sel = some .nop ∧ s.busy = true ∧
    (nextPresentation s).1.inp.inLen = s.inp.inLen ∧ (nextPresentation s).1.inp.inMem = s.inp.inMem := by decide
theorem test_witness_StepWhereNoInstructionRuns_refused :
    (let s := { running .encode rawS1 with host := [move 0x00 true false []] }
     decodeWord (nextPresentation s).1.inp.sel = some .nop ∧ s.busy = true ∧
     ((nextPresentation s).1.inp.inLen ≠ s.inp.inLen ∨ (nextPresentation s).1.inp.inMem ≠ s.inp.inMem)) ∧
    decodeWord (nextPresentation { State.reset with host := [move 0xFF true false []] }).1.inp.sel = none := by
  decide

theorem test_witness_FetchWordRunsNext : decodeTableWord 8 0b00010101 = some .decRom15 := by decide

/-- One row of each table statement, at the ends of its range. -/
theorem test_witness_table_rows :
    codeWords[(0x0#4).toNat]? = some 0b01010#5 ∧ codeWords[(0xF#4).toNat]? = some 0b10101#5 ∧
    (0b00000#5 ∉ codeWords) ∧ codeWords[(0x8#4).toNat]? = some 0b01001#5 ∧ (0b11111#5 ∉ codeWords) := by decide

theorem test_witness_DecodeTableInvertsEncodeTable :
    decRom 0b11110#5 = some 0xE#4 ∧ (0b11111#5 ∉ codeWords) ∧ encRom 0x3 = encRom 0x3 := by decide

theorem test_witness_DecLutReadsTheDecodeTable :
    (State.reset.ready ∧ decRom State.reset.inp.decAddr = none) ∧
    (let s := { State.reset with inp := { Inputs.initial with decAddr := 0b11110 } }
     s.ready ∧ decRom s.inp.decAddr = some 0xE) := by
  exact ⟨⟨⟨rfl, rfl⟩, by decide⟩, ⟨⟨rfl, rfl⟩, by decide⟩⟩

/-- A du_in whose 8 fields are all valid (nibbles 8 to F), and one whose last field is not. -/
theorem test_witness_DecodeUnitGivesFourBytesOrFails :
    (let s := { State.reset with inp := { Inputs.initial with duIn := 0x4E75B6F7D5 } }
     s.ready ∧ decRom (s.inp.duIn.extractLsb' 35 5) = some 0x8 ∧ decRom (s.inp.duIn.extractLsb' 30 5) = some 0x9 ∧
     decRom (s.inp.duIn.extractLsb' 25 5) = some 0xA ∧ decRom (s.inp.duIn.extractLsb' 20 5) = some 0xB ∧
     decRom (s.inp.duIn.extractLsb' 15 5) = some 0xC ∧ decRom (s.inp.duIn.extractLsb' 10 5) = some 0xD ∧
     decRom (s.inp.duIn.extractLsb' 5 5) = some 0xE ∧ decRom (s.inp.duIn.extractLsb' 0 5) = some 0xF) ∧
    decRom ((0x4E75B6F7D4#40).extractLsb' (35 - 5 * 7) 5) = none := by
  exact ⟨⟨⟨rfl, rfl⟩, by decide⟩, by decide⟩

theorem test_witness_NopLeavesEverything : State.reset.busy = false ∧ State.reset.host = [] := by decide

theorem test_witness_ReservedCommandIsRefused :
    (nextPresentation { State.reset with host := [move 0x07 true false []] }).1.inp.sel = 0b00000111#8 := by decide

theorem test_witness_CommandsNeedAReadyBlock :
    (Instr.encLut ≠ .construct ∧ Instr.encLut ≠ .nop ∧ Instr.encLut ≠ .reserved ∧ State.powerOn.constructed = false) ∧
    (running .encode rawS1).constructed = true ∧ (running .encode rawS1).busy = true := by decide

theorem test_witness_ResetWhileBusyAbandonsTheOperation :
    let p := move 0b00001101#8 true false []
    let s := { running .decode codedS1 with host := [p] }
    s.busy = true ∧ s.host = [p] ∧ p.atOnce = true ∧ p.inp.sel = 0b00001#5 ++ 0b101#3 := by decide

theorem test_witness_EncodeWritesTheEncodedBuffer :
    (withIn rawS1).inp.inMem.slice 0 (4 * ((withIn rawS1).inp.inLen / 4)) = some rawS1 := by decide

theorem test_witness_DecodeWritesTheDecodedBuffer :
    (withIn codedS1).inp.inMem.slice 0 (5 * ((withIn codedS1).inp.inLen / 5)) = some codedS1 ∧
    decodeBytes codedS1 = some rawS1 := by decide

theorem test_witness_DecodeFailsAsAWhole :
    (withIn badS3).inp.inMem.slice 0 (5 * ((withIn badS3).inp.inLen / 5)) = some badS3 ∧ decodeBytes badS3 = none := by
  decide

/-- ENCODE, DECODE and a failing DECODE that answer a next state: ResultLengths, FailedDecodeShowsNoBytes,
BufferOperationsWriteOnlyTheirResult, OnlyDecodersSetStatus, HostReadsTheBufferResult. -/
theorem test_witness_buffer_operations_answer_next :
    (∃ t, exec .encode (withIn rawS1) = .next t ∧ (t.status == .ok) = true) ∧
    (∃ t, exec .decode (withIn codedS1) = .next t ∧ (t.status == .ok) = true) ∧
    (∃ t, exec .decode (withIn badS3) = .next t ∧ (t.status == .invalidCodeWord) = true) :=
  ⟨got_next (by decide), got_next (by decide), got_next (by decide)⟩

/-- OUT above and below the bytes a two-group ENCODE and DECODE store: the first address outside them. -/
theorem test_witness_BufferOperationsWriteOnlyTheirResult_address :
    (∀ g, g < encodeGroups (withIn rawS1).inp.inLen → 10 < encodeOutAddr g ∨ encodeOutAddr g + 5 ≤ 10) ∧
    (∀ g, g < decodeGroups (withIn codedS1).inp.inLen → 8 < decodeOutAddr g ∨ decodeOutAddr g + 4 ≤ 8) := by
  decide

/-- Lookups and units that answer a next state: LookupsAndUnitsLeaveBuffersAlone, ReadsFollowTheLatestCommand. -/
theorem test_witness_lookups_and_units_answer_next :
    (∃ t, exec .encLut State.reset = .next t ∧ true = true) ∧ (∃ t, exec .decLut State.reset = .next t ∧ true = true) ∧
    (∃ t, exec .encodeUnit State.reset = .next t ∧ true = true) ∧
    (∃ t, exec .decodeUnit State.reset = .next t ∧ (t.status == .invalidCodeWord) = true) ∧
    (∃ t, exec .encRomF State.reset = .next t ∧ true = true) ∧ (∃ t, exec .decRom00 State.reset = .next t ∧ true = true) :=
  ⟨got_next (p := fun _ => true) (by decide), got_next (p := fun _ => true) (by decide),
   got_next (p := fun _ => true) (by decide), got_next (by decide),
   got_next (p := fun _ => true) (by decide), got_next (p := fun _ => true) (by decide)⟩

/-- Every clause of EncodeStepsOneGroup: the last group, and FINISH. -/
theorem test_witness_EncodeStepsOneGroup :
    (let s := { running .encode rawS1 with g := 1 }
     s.busy = true ∧ s.op = .encode ∧ s.g < s.nIn / 4 ∧ s.inp.inMem.slice (4 * s.g) 4 = some [0x30, 0x30, 0x00, 0x00]) ∧
    (let s := { running .encode rawS1 with g := 2 }
     s.busy = true ∧ s.op = .encode ∧ s.g = s.nIn / 4) := by decide

/-- Every clause of DecodeStepsOneGroup: a good last group, a bad one, and FINISH. -/
theorem test_witness_DecodeStepsOneGroup :
    (let s := { running .decode codedS1 with g := 1 }
     s.busy = true ∧ s.op = .decode ∧ s.g < s.nIn / 5 ∧
     s.inp.inMem.slice (5 * s.g) 5 = some [0x9A, 0xA6, 0xA5, 0x29, 0x4A] ∧
     decodeUnit (0x9A#8 ++ 0xA6#8 ++ 0xA5#8 ++ 0x29#8 ++ 0x4A#8) = some 0x30300000) ∧
    (let s := running .decode badS3
     s.busy = true ∧ s.op = .decode ∧ s.g < s.nIn / 5 ∧
     s.inp.inMem.slice (5 * s.g) 5 = some [0xFF, 0xFF, 0xFF, 0xFF, 0xFF] ∧
     decodeUnit (0xFF#8 ++ 0xFF#8 ++ 0xFF#8 ++ 0xFF#8 ++ 0xFF#8) = none) ∧
    (let s := { running .decode codedS1 with g := 2 }
     s.busy = true ∧ s.op = .decode ∧ s.g = s.nIn / 5) := by decide

theorem test_witness_StepwiseEncodeIsWholeEncode :
    let p := move 0b00000001#8 false true rawS1
    let s := { State.reset with host := [p] }
    s.ready ∧ s.host = [p] ∧ p.stepwise = true ∧ p.inp.sel = 0b00000001#8 := ⟨⟨rfl, rfl⟩, rfl, rfl, rfl⟩

theorem test_witness_StepwiseDecodeIsWholeDecode :
    let p := move 0b00000010#8 false true badS3
    let s := { State.reset with host := [p] }
    s.ready ∧ s.host = [p] ∧ p.stepwise = true ∧ p.inp.sel = 0b00000010#8 := ⟨⟨rfl, rfl⟩, rfl, rfl, rfl⟩

/-- A busy block that meets the invariants: after START, nothing processed. -/
theorem running_busyOk (o : BufferOp) (bs : List Byte) : (running o bs).busyOk := by
  intro _
  refine ⟨rfl, rfl, rfl, rfl, ?_⟩
  cases o
  · exact ⟨Nat.zero_le _, rfl, [], rfl, rfl⟩
  · exact ⟨Nat.zero_le _, rfl, [], [], rfl, rfl, rfl⟩

theorem test_witness_EveryStartedOperationEnds :
    (running .encode rawS1).busyOk ∧ (running .encode rawS1).busy = true ∧ (running .encode rawS1).inputComplete ∧
    (running .encode rawS1).host = [] ∧ (running .decode badS3).busyOk ∧ (running .decode badS3).inputComplete :=
  ⟨running_busyOk _ _, rfl, by unfold State.inputComplete; decide, rfl, running_busyOk _ _,
   by unfold State.inputComplete; decide⟩

/-- The three invariants hold of a busy block whose next step is a next state, and of an idle one. -/
theorem test_witness_EveryStepKeeps :
    ((running .encode rawS1).memoryOk ∧ (running .encode rawS1).busyOk ∧ (running .encode rawS1).statusOk) ∧
    (∃ t, step (running .encode rawS1) = .next t ∧ (t.g == 1) = true) ∧ (∃ t, step State.reset = .next t ∧ true = true) := by
  refine ⟨⟨⟨rfl, by decide, ?_⟩, running_busyOk _ _, ?_, ?_, ?_⟩, got_next (by decide),
    got_next (p := fun _ => true) (by decide)⟩
  · intro p hp; cases hp
  · intro h; cases h
  · intro h; cases h
  · intro h; cases h

/-- Host moves that keep every duty: ENCODE of a full IN on an idle block, and nothing on a busy one. -/
theorem test_witness_DutifulHostIsNeverStopped :
    (let s := { State.reset with host := [move 0x01 false false rawS1] }
     s.busyOk ∧ s.hostDutiful) ∧
    ((running .decode badS3).busyOk ∧ (running .decode badS3).hostDutiful) := by
  refine ⟨⟨fun h => absurd h (by decide), .encode, by decide, rfl, fun _ => ?_, fun h => absurd h (by decide),
      fun h => absurd h (by decide)⟩,
    running_busyOk _ _, .nop, by decide, rfl, fun _ => ?_, fun h => absurd h (by decide),
      fun _ => .inr ⟨rfl, by decide⟩⟩ <;>
  · unfold State.inputComplete; decide

/-- Two ready blocks with the same operands and different pasts, both of which answer a next state. -/
theorem test_witness_ResultsDependOnTheOperandsAlone :
    let s := withIn codedS1
    let s' := { withIn codedS1 with status := .invalidCodeWord, outLen := 3, out := [(9, 0x77)], freeIndex := 4 }
    Instr.decode ≠ .nop ∧ s.ready ∧ s'.ready ∧ s.inp = s'.inp ∧
    (∃ t, exec .decode s = .next t ∧ true = true) ∧ (∃ t, exec .decode s' = .next t ∧ true = true) :=
  ⟨by decide, ⟨rfl, rfl⟩, ⟨rfl, rfl⟩, rfl, got_next (p := fun _ => true) (by decide),
   got_next (p := fun _ => true) (by decide)⟩

theorem test_witness_EncodeOfDecodeGivesBackTheBuffer : decodeBytes (codedS1 ++ [0xFF]) = some rawS1 := by decide
theorem test_witness_UnitsAreInverse :
    decodeUnit 0x5254B5294B = some 0x08010001 ∧ encodeUnit 0x08010001 = encodeUnit 0x08010001 := by decide
theorem test_witness_TrailingBytesAreDropped :
    rawS1.length % 4 = 0 ∧ [0x55#8, 0x66#8, 0x77#8].length < 4 ∧ codedS1.length % 5 = 0 ∧
    [0xFF#8, 0xFF#8, 0xFF#8, 0xFF#8].length < 5 := by decide
theorem test_witness_WholeGroupsConcatenate :
    rawS1.length % 4 = 0 ∧ codedS1.length % 5 = 0 ∧ decodeBytes codedS1 = some rawS1 ∧
    decodeBytes [] = some [] ∧ badS3.length % 5 = 0 ∧ decodeBytes badS3 = none := by decide
theorem test_witness_EncodeThenDecodeOnTheBlock :
    (withIn rawS1).ready ∧ (withIn rawS1).inp.inMem.slice 0 (4 * ((withIn rawS1).inp.inLen / 4)) = some rawS1 :=
  ⟨⟨rfl, rfl⟩, by decide⟩

end Sys2Proof.Tests
end

section
/-!
PROOFS of the family 10_state.md: the status register (R18, R160, R165), what the host reads after a command (R14, R19,
R185), the reset state (R22), and the two tables as inverses of each other (R12).
-/

namespace Sys2Proof.Machine

/-! ### What the host reads, as one value -/

/-- What reads of OUT return, by address. -/
abbrev OutReads := Nat → Option Byte

/-- The answers to all nine result reads of R19 and R185. -/
structure HostView where
  status : Option Status
  outLen : Option Nat
  out : OutReads
  encData : Option CodeWord
  decValid : Option Bool
  decData : Option Nibble
  euOut : Option Q40
  duOk : Option Bool
  duOut : Option G32

/-- No read returns a value. -/
def HostView.blank : HostView :=
  { status := none, outLen := none, out := fun _ => none, encData := none, decValid := none, decData := none,
    euOut := none, duOk := none, duOut := none }

/-- What the host reads from a state. -/
def hostView (s : State) : HostView :=
  { status := readStatus s, outLen := readOutLen s, out := readOut s, encData := readEncData s,
    decValid := readDecValid s, decData := readDecData s, euOut := readEuOut s, duOk := readDuOk s,
    duOut := readDuOut s }

theorem hostView_eq_iff (s : State) (v : HostView) :
    hostView s = v ↔
      readStatus s = v.status ∧ readOutLen s = v.outLen ∧ (∀ a, readOut s a = v.out a) ∧
      readEncData s = v.encData ∧ readDecValid s = v.decValid ∧ readDecData s = v.decData ∧
      readEuOut s = v.euOut ∧ readDuOk s = v.duOk ∧ readDuOut s = v.duOut := by
  cases v
  simp only [hostView, HostView.mk.injEq, funext_iff]

theorem sameResults_iff (s t : State) : s.sameResults t ↔ hostView s = hostView t :=
  (hostView_eq_iff s (hostView t)).symm

/-- R19, R185 (c), (d), (e): which reads return a value, by the operation that ended last. -/
def viewByDone (s : State) : HostView :=
  match s.done with
  | none => .blank
  | some .encode | some .decode =>
    { HostView.blank with
      status := some s.status, outLen := some s.outLen,
      out := fun a => if s.status = .ok ∧ a < s.outLen then s.out.read a else none }
  | some .encodeUnit => { HostView.blank with status := some s.status, euOut := some s.unit.euOut }
  | some .decodeUnit =>
    { HostView.blank with
      status := some s.status, duOk := some s.unit.duOk, duOut := if s.unit.duOk then some s.unit.duOut else none }
  | some .encLut => { HostView.blank with status := some s.status, encData := some s.unit.encData }
  | some .decLut =>
    { HostView.blank with
      status := some s.status, decValid := some s.unit.decValid,
      decData := if s.unit.decValid then some s.unit.decData else none }

/-- The case split on `done` that all nine reads make, made once. -/
theorem hostView_eq_viewByDone (s : State) : hostView s = viewByDone s := by
  unfold viewByDone
  split <;>
    simp [*, hostView_eq_iff, HostView.blank, readStatus, readOutLen, readOut, bufferDone, readEncData, readDecValid,
      readDecData, readEuOut, readDuOk, readDuOut]

theorem hostView_of_done_none {s : State} (h : s.done = none) : hostView s = .blank := by
  simp only [hostView_eq_viewByDone, viewByDone, h]

theorem hostView_of_bufferDone {s : State} (h : s.done = some .encode ∨ s.done = some .decode) :
    hostView s =
      { HostView.blank with
        status := some s.status, outLen := some s.outLen,
        out := fun a => if s.status = .ok ∧ a < s.outLen then s.out.read a else none } := by
  rcases h with h | h <;> simp only [hostView_eq_viewByDone, viewByDone, h]

theorem hostView_deliverEncData (c : CodeWord) (s : State) :
    hostView (deliverEncData c s) = { HostView.blank with status := some .ok, encData := some c } :=
  hostView_eq_viewByDone _

/-- R72, U6: `dec_data` is read for a valid entry only, so the read is the entry itself. -/
theorem hostView_deliverDecEntry (e : Option Nibble) (s : State) :
    hostView (deliverDecEntry e s) =
      { HostView.blank with status := some .ok, decValid := some e.isSome, decData := e } := by
  cases e <;> exact hostView_eq_viewByDone _

theorem hostView_deliverEuOut (q : Q40) (s : State) :
    hostView (deliverEuOut q s) = { HostView.blank with status := some .ok, euOut := some q } :=
  hostView_eq_viewByDone _

theorem hostView_deliverDuOut (x : G32) (s : State) :
    hostView (deliverDuOut x s) =
      { HostView.blank with status := some .ok, duOk := some true, duOut := some x } :=
  hostView_eq_viewByDone _

theorem hostView_takeInvalidCodeWord_decodeUnit (s : State) :
    hostView (takeInvalidCodeWord .decodeUnit s) =
      { HostView.blank with status := some .invalidCodeWord, duOk := some false } :=
  hostView_eq_viewByDone _

/-! ### What the host reads after each lookup and unit command -/

section

variable {s t : State}

theorem hostView_of_lookEnc {n : Nibble} (h : lookEnc n s = .next t) :
    hostView t = { HostView.blank with status := some .ok, encData := some (encRom n) } := by
  obtain ⟨-, hk⟩ := accept_next h
  rw [← Host.Outcome.next.inj hk, hostView_deliverEncData]

theorem hostView_of_lookDec {v : CodeWord} (h : lookDec v s = .next t) :
    hostView t =
      { HostView.blank with status := some .ok, decValid := some (decRom v).isSome, decData := decRom v } := by
  obtain ⟨-, hk⟩ := accept_next h
  rw [← Host.Outcome.next.inj hk, hostView_deliverDecEntry]

theorem hostView_of_execEncLut (h : execEncLut s = .next t) :
    hostView t = { HostView.blank with status := some .ok, encData := some (encRom s.inp.encAddr) } := by
  obtain ⟨-, hk⟩ := accept_next h
  rw [← Host.Outcome.next.inj hk, hostView_deliverEncData, beginCommand_inp]

theorem hostView_of_execDecLut (h : execDecLut s = .next t) :
    hostView t =
      { HostView.blank with
        status := some .ok, decValid := some (decRom s.inp.decAddr).isSome, decData := decRom s.inp.decAddr } := by
  obtain ⟨-, hk⟩ := accept_next h
  rw [← Host.Outcome.next.inj hk, hostView_deliverDecEntry, beginCommand_inp]

theorem hostView_of_execEncodeUnit (h : execEncodeUnit s = .next t) :
    hostView t = { HostView.blank with status := some .ok, euOut := some (encodeUnit s.inp.euIn) } := by
  obtain ⟨-, hk⟩ := accept_next h
  rw [← Host.Outcome.next.inj hk, hostView_deliverEuOut, beginCommand_inp]

/-- R140: success and failure in one view; `du_out` is read on success only, so the read is the decoded group itself. -/
theorem hostView_of_execDecodeUnit (h : execDecodeUnit s = .next t) :
    hostView t =
      { HostView.blank with
        status := some (if (decodeUnit s.inp.duIn).isSome then .ok else .invalidCodeWord),
        duOk := some (decodeUnit s.inp.duIn).isSome, duOut := decodeUnit s.inp.duIn } := by
  obtain ⟨-, hk⟩ := accept_next h
  rw [beginCommand_inp] at hk
  cases hd : decodeUnit s.inp.duIn with
  | some x =>
    rw [hd] at hk
    rw [← Host.Outcome.next.inj hk, hostView_deliverDuOut]
    rfl
  | none =>
    rw [hd] at hk
    rw [← Host.Outcome.next.inj hk, hostView_takeInvalidCodeWord_decodeUnit]
    rfl

end

/-- Settles O59: each command's view, read off one result at a time. -/
theorem readsFollowTheLatestCommand : Obligations.ReadsFollowTheLatestCommand := by
  refine ⟨fun s t h => ?encLut, fun s t h => ?decLut, fun s t h => ?encodeUnit, fun s t h => ?decodeUnit⟩
  case encLut =>
    obtain ⟨status, outLen, out, encData, decValid, decData, euOut, duOk, duOut⟩ :=
      (hostView_eq_iff t _).mp (hostView_of_execEncLut h)
    exact ⟨encData, status, outLen, out, decValid, decData, euOut, duOk, duOut⟩
  case decLut =>
    obtain ⟨status, outLen, out, encData, decValid, decData, euOut, duOk, duOut⟩ :=
      (hostView_eq_iff t _).mp (hostView_of_execDecLut h)
    exact ⟨decValid, decData, status, outLen, out, encData, euOut, duOk, duOut⟩
  case encodeUnit =>
    obtain ⟨status, outLen, out, encData, decValid, decData, euOut, duOk, duOut⟩ :=
      (hostView_eq_iff t _).mp (hostView_of_execEncodeUnit h)
    exact ⟨euOut, status, outLen, out, encData, decValid, decData, duOk, duOut⟩
  case decodeUnit =>
    obtain ⟨status, outLen, out, encData, decValid, decData, euOut, duOk, duOut⟩ :=
      (hostView_eq_iff t _).mp (hostView_of_execDecodeUnit h)
    exact ⟨duOk, duOut, status, outLen, out, encData, decValid, decData, euOut⟩

/-! ### The status invariant (R18, R165) -/

/-- The enabled step of a busy block is the step of the operation it runs (R16). -/
theorem busyStep_next {s t : State} (h : busyStep s = .next t) :
    (s.op = .encode ∧ encodeStep s = .next t) ∨ (s.op = .decode ∧ decodeStep s = .next t) := by
  unfold busyStep at h
  cases ho : s.op with
  | encode => rw [ho] at h; exact .inl ⟨rfl, h⟩
  | decode => rw [ho] at h; exact .inr ⟨rfl, h⟩

/-- With `status = 0` only two things are left to check: a `done` means idle, and a DECODE_UNIT set `du_ok`. -/
theorem State.statusOk.of_ok {s : State} (hs : s.status = .ok) (hd : s.done.isSome = true → s.busy = false)
    (hu : s.done = some .decodeUnit → s.unit.duOk = true) : s.statusOk :=
  ⟨hd, fun h => absurd (hs.symm.trans h) (by decide), fun h => iff_of_true (hu h) hs⟩

theorem State.statusOk.of_noDone {s : State} (hs : s.status = .ok) (hd : s.done = none) : s.statusOk :=
  .of_ok hs (by simp [hd]) (by simp [hd])

/-- A busy block has neither a result nor a failure to show: the status invariant implies this part of the busy-block
invariant. -/
theorem State.statusOk.noDone_of_busy {s : State} (h : s.statusOk) (hb : s.busy = true) :
    s.status = .ok ∧ s.done = none := by
  obtain ⟨hidle, hfail, -⟩ := h
  have hd : s.done = none := by
    cases hd : s.done with
    | none => rfl
    | some o => exact absurd (hidle (by simp [hd])) (by simp [hb])
  cases hs : s.status with
  | ok => exact ⟨rfl, hd⟩
  | invalidCodeWord =>
    rcases hfail hs with ⟨h, -⟩ | ⟨h, -⟩ <;> exact absurd (hd.symm.trans h) (by simp)

/-- The ports take no part in the status invariant. -/
theorem present_statusOk {s : State} (h : s.statusOk) : (present s).statusOk := h

theorem startBuffer_statusOk (o : BufferOp) (s : State) : (startBuffer o (beginCommand s)).statusOk :=
  .of_noDone rfl rfl

theorem takeInvalidCodeWord_decode_statusOk (s : State) : (takeInvalidCodeWord .decode s).statusOk := by
  simp [State.statusOk]

theorem takeInvalidCodeWord_decodeUnit_statusOk (s : State) : (takeInvalidCodeWord .decodeUnit s).statusOk := by
  simp [State.statusOk]

theorem busyStep_keeps_statusOk (s t : State) (hb : s.busy = true) (hi : s.statusOk) (h : busyStep s = .next t) :
    t.statusOk := by
  obtain ⟨hs, hd⟩ := hi.noDone_of_busy hb
  rcases busyStep_next h with ⟨-, h⟩ | ⟨-, h⟩
  · rcases encodeStep_next h with ⟨x, -, -, rfl⟩ | ⟨-, rfl⟩
    · exact .of_noDone hs hd
    · exact .of_ok hs (fun _ => rfl) (by simp)
  · rcases decodeStep_next h with ⟨q, x, -, -, -, rfl⟩ | ⟨q, -, -, -, rfl⟩ | ⟨-, rfl⟩
    · exact .of_noDone hs hd
    · exact takeInvalidCodeWord_decode_statusOk s
    · exact .of_ok hs (fun _ => rfl) (by simp)

theorem exec_keeps_statusOk {i : Instr} {s t : State} (hi : s.statusOk) (h : exec i s = .next t) : t.statusOk := by
  rcases exec_next_cases h with ⟨-, rfl⟩ | ⟨-, rfl⟩ | ⟨⟨-, hb⟩, hcmd⟩
  · exact .of_noDone rfl rfl
  · exact hi
  · rcases hcmd with ⟨c, rfl⟩ | ⟨e, rfl⟩ | ⟨-, rfl⟩ | ⟨-, x, -, rfl⟩ | ⟨-, -, rfl⟩ | ⟨-, hrun⟩ | ⟨-, hrun⟩
    · exact .of_ok rfl (fun _ => hb) (by simp)
    · exact .of_ok rfl (fun _ => hb) (by simp)
    · exact .of_ok rfl (fun _ => hb) (by simp)
    · exact .of_ok rfl (fun _ => hb) (fun _ => rfl)
    · exact takeInvalidCodeWord_decodeUnit_statusOk _
    · exact runToDone_keeps busyStep_keeps_statusOk (startBuffer_statusOk _ s) hrun
    · exact runToDone_keeps busyStep_keeps_statusOk (startBuffer_statusOk _ s) hrun

/-- Settles O42, by the three things a step can be. The busy-block invariant is not needed: the status invariant already
says that a busy block has status 0 and no `done`. -/
theorem everyStepKeepsTheStatusInvariant : Obligations.EveryStepKeepsTheStatusInvariant := by
  intro s t hi _ h
  rcases step_next h with ⟨i, -, h⟩ | ⟨o, h⟩ | ⟨hb, -, h⟩
  · exact exec_keeps_statusOk (present_statusOk hi) h
  · obtain ⟨-, rfl⟩ := startOnly_next h
    exact startBuffer_statusOk o _
  · exact busyStep_keeps_statusOk (present s) t hb (present_statusOk hi) h

/-- A running ENCODE with status 0: no step of R134 writes either register. -/
def EncodingOk (s : State) : Prop := s.op = .encode ∧ s.status = .ok

theorem busyStep_keeps_encodingOk (s t : State) (_ : s.busy = true) (hi : EncodingOk s) (h : busyStep s = .next t) :
    EncodingOk t := by
  rcases busyStep_next h with ⟨-, h⟩ | ⟨ho, -⟩
  · rcases encodeStep_next h with ⟨x, -, -, rfl⟩ | ⟨-, rfl⟩
    · exact hi
    · exact hi
  · exact absurd (hi.1.symm.trans ho) (by decide)

/-- Settles O33: every result but a failed one is delivered with status 0, and ENCODE keeps the status 0 of its start. -/
theorem onlyDecodersSetStatus : Obligations.OnlyDecodersSetStatus := by
  intro i s t h hs
  rcases exec_next_cases h with ⟨-, rfl⟩ | ⟨hi, rfl⟩ | ⟨-, hcmd⟩
  · simp at hs
  · exact .inr (.inr ⟨hi, hs⟩)
  · rcases hcmd with ⟨c, rfl⟩ | ⟨e, rfl⟩ | ⟨-, rfl⟩ | ⟨-, x, -, rfl⟩ | ⟨hi, -, -⟩ | ⟨-, hrun⟩ | ⟨hi, -⟩
    · simp at hs
    · simp at hs
    · simp at hs
    · simp at hs
    · exact .inr (.inl hi)
    · obtain ⟨-, hok⟩ : EncodingOk t := runToDone_keeps busyStep_keeps_encodingOk ⟨rfl, rfl⟩ hrun
      exact absurd (hok.symm.trans hs) (by decide)
    · exact .inl hi

/-! ### Two runs of one buffer operation on the same operands -/

/-- R33, R35: the bytes one group adds to OUT. -/
def BufferOp.groupBytes : BufferOp → Nat
  | .encode => 5
  | .decode => 4

/-- Two runs of a buffer operation in step with each other. OUT agrees below `out_len` only, and the group counter only
while the block is busy, since a failed DECODE leaves it free (log 25); a busy block's next group is written at `out_len`. -/
structure SameRun (s s' : State) : Prop where
  inp : s'.inp = s.inp
  busy : s'.busy = s.busy
  op : s'.op = s.op
  nIn : s'.nIn = s.nIn
  outLen : s'.outLen = s.outLen
  status : s'.status = s.status
  done : s'.done = s.done
  bufferResult : s.done = none ∨ s.done = some .encode ∨ s.done = some .decode
  group : s.busy = true → s'.g = s.g ∧ s.outLen = s.op.groupBytes * s.g
  out : ∀ a, a < s.outLen → s'.out.read a = s.out.read a

theorem SameRun.of_start (o : BufferOp) {s s' : State} (h : s'.inp = s.inp) :
    SameRun (startBuffer o (beginCommand s)) (startBuffer o (beginCommand s')) where
  inp := h
  busy := rfl
  op := rfl
  nIn := congrArg Inputs.inLen h
  outLen := rfl
  status := rfl
  done := rfl
  bufferResult := .inl rfl
  group := fun _ => ⟨rfl, rfl⟩
  out := fun _ ha => absurd ha (Nat.not_lt_zero _)

/-- The host reads the same from two runs in step: of OUT it reads only what lies below `out_len`. -/
theorem SameRun.hostView_eq {s s' : State} (h : SameRun s s') : hostView s = hostView s' := by
  rcases h.bufferResult with hd | hd
  · rw [hostView_of_done_none hd, hostView_of_done_none (h.done.trans hd)]
  · have hout (a : Nat) : (if s.status = .ok ∧ a < s.outLen then s.out.read a else none) =
        if s.status = .ok ∧ a < s.outLen then s'.out.read a else none :=
      ite_congr rfl (fun ha => (h.out a ha.2).symm) fun _ => rfl
    rw [hostView_of_bufferDone hd, hostView_of_bufferDone (h.done ▸ hd), h.status, h.outLen]
    simp only [hout]

/-- Spaces that agree below `a` agree below the end of the same bytes written at `a`. -/
theorem Memory.read_writeBytes_agree {m m' : Memory} {a : Nat} (h : ∀ b, b < a → m'.read b = m.read b)
    (bs : List Byte) {b : Nat} (hb : b < a + bs.length) :
    (m'.writeBytes a bs).read b = (m.writeBytes a bs).read b := by
  rcases Nat.lt_or_ge b a with hba | hba
  · rw [Memory.read_writeBytes_outside _ _ _ _ (.inl hba), Memory.read_writeBytes_outside _ _ _ _ (.inl hba), h b hba]
  · obtain ⟨i, rfl⟩ := Nat.exists_eq_add_of_le hba
    have hi : i < bs.length := by omega
    rw [Memory.read_writeBytes_inside _ _ _ _ hi, Memory.read_writeBytes_inside _ _ _ _ hi]

section

variable {s s' t : State}

theorem SameRun.after_encodeGroup (h : SameRun s s') (hb : s.busy = true) (ho : s.op = .encode) (x : G32) :
    SameRun (encodeGroup x s) (encodeGroup x s') := by
  obtain ⟨hg, hlen⟩ := h.group hb
  have haddr : encodeOutAddr s.g = s.outLen := by simp [encodeOutAddr, hlen, ho, BufferOp.groupBytes]
  exact
    { h with
      outLen := congrArg (· + 5) h.outLen
      group := fun _ => ⟨congrArg (· + 1) hg, by simp [hlen, ho, BufferOp.groupBytes]; omega⟩
      out := fun a ha => by
        simp only [encodeGroup_out, hg, haddr]
        exact Memory.read_writeBytes_agree h.out _ ha }

theorem SameRun.after_decodeGroup (h : SameRun s s') (hb : s.busy = true) (ho : s.op = .decode) (x : G32) :
    SameRun (decodeGroup x s) (decodeGroup x s') := by
  obtain ⟨hg, hlen⟩ := h.group hb
  have haddr : decodeOutAddr s.g = s.outLen := by simp [decodeOutAddr, hlen, ho, BufferOp.groupBytes]
  exact
    { h with
      outLen := congrArg (· + 4) h.outLen
      group := fun _ => ⟨congrArg (· + 1) hg, by simp [hlen, ho, BufferOp.groupBytes]; omega⟩
      out := fun a ha => by
        simp only [decodeGroup_out, hg, haddr]
        exact Memory.read_writeBytes_agree h.out _ ha }

theorem SameRun.after_finishBuffer (h : SameRun s s') {o : Operation} (ho : o = .encode ∨ o = .decode) :
    SameRun (finishBuffer o s) (finishBuffer o s') :=
  { h with
    busy := rfl
    done := rfl
    bufferResult := .inr (ho.imp (congrArg some) (congrArg some))
    group := fun hb => absurd hb (by simp) }

theorem SameRun.after_takeInvalidCodeWord (h : SameRun s s') :
    SameRun (takeInvalidCodeWord .decode s) (takeInvalidCodeWord .decode s') :=
  { h with
    busy := rfl
    outLen := rfl
    status := rfl
    done := rfl
    bufferResult := .inr (.inr rfl)
    group := fun hb => absurd hb (by simp)
    out := fun _ _ => rfl }

/-- Two runs in step stay in step: what a step reads (R134, R145) is the group at `g` of IN, the same in both. -/
theorem SameRun.after_busyStep (h : SameRun s s') (hb : s.busy = true) (ht : busyStep s = .next t) :
    ∃ t', busyStep s' = .next t' ∧ SameRun t t' := by
  obtain ⟨hg, -⟩ := h.group hb
  rcases busyStep_next ht with ⟨ho, ht⟩ | ⟨ho, ht⟩
  · have hstep : busyStep s' = encodeStep s' := by simp [busyStep, h.op, ho]
    rw [hstep]
    rcases encodeStep_next ht with ⟨x, hlt, hx, rfl⟩ | ⟨heq, rfl⟩
    · exact ⟨_, encodeStep_group (by rwa [hg, h.nIn]) (by rwa [hg, h.inp]), h.after_encodeGroup hb ho x⟩
    · exact ⟨_, encodeStep_finish (by rwa [hg, h.nIn]), h.after_finishBuffer (.inl rfl)⟩
  · have hstep : busyStep s' = decodeStep s' := by simp [busyStep, h.op, ho]
    rw [hstep]
    rcases decodeStep_next ht with ⟨q, x, hlt, hq, hx, rfl⟩ | ⟨q, hlt, hq, hx, rfl⟩ | ⟨heq, rfl⟩
    · exact ⟨_, decodeStep_groupOk (by rwa [hg, h.nIn]) (by rwa [hg, h.inp]) hx, h.after_decodeGroup hb ho x⟩
    · exact ⟨_, decodeStep_groupFail (by rwa [hg, h.nIn]) (by rwa [hg, h.inp]) hx, h.after_takeInvalidCodeWord⟩
    · exact ⟨_, decodeStep_finish (by rwa [hg, h.nIn]), h.after_finishBuffer (.inr rfl)⟩

/-- Everything a run that goes on can be: at its end, or one more step and the rest of the run. -/
theorem runToDone_succ_next {n : Nat} (h : runToDone (n + 1) s = .next t) :
    (s.busy = false ∧ t = s) ∨ (s.busy = true ∧ ∃ u, busyStep s = .next u ∧ runToDone n u = .next t) := by
  cases hb : s.busy with
  | false =>
    rw [runToDone_of_idle hb] at h
    exact .inl ⟨rfl, (Host.Outcome.next.inj h).symm⟩
  | true =>
    cases hu : busyStep s with
    | next u => exact .inr ⟨rfl, u, rfl, by rwa [runToDone_succ hb hu] at h⟩
    | fault r => simp [runToDone, hb, hu] at h
    | refused r => simp [runToDone, hb, hu] at h

theorem SameRun.after_runToDone {n : Nat} (h : SameRun s s') (ht : runToDone n s = .next t) :
    ∃ t', runToDone n s' = .next t' ∧ SameRun t t' := by
  induction n generalizing s s' with
  | zero => exact ⟨s', rfl, Host.Outcome.next.inj ht ▸ h⟩
  | succ n ih =>
    rcases runToDone_succ_next ht with ⟨hb, rfl⟩ | ⟨hb, u, hu, ht⟩
    · exact ⟨s', runToDone_of_idle (h.busy.trans hb) _, h⟩
    · obtain ⟨u', hu', huu⟩ := h.after_busyStep hb hu
      rw [runToDone_succ (h.busy.trans hb) hu']
      exact ih huu ht

/-- Two runs of a whole buffer operation with the same operands show the host the same result. -/
theorem hostView_eq_of_runToDone {t' : State} (o : BufferOp) {n : Nat} (hinp : s'.inp = s.inp)
    (ht : runToDone n (startBuffer o (beginCommand s)) = .next t)
    (ht' : runToDone n (startBuffer o (beginCommand s')) = .next t') : hostView t = hostView t' := by
  obtain ⟨u, hu, htu⟩ := (SameRun.of_start o hinp).after_runToDone ht
  rw [htu.hostView_eq, Host.Outcome.next.inj (hu.symm.trans ht')]

end

/-! ### The results depend on the operands alone (R14, R191) -/

/-- Every row of the opcode table but the nine of the command port is one lookup at an index of its own (log 2). -/
theorem exec_row_cases (i : Instr) :
    i ∈ [.construct, .nop, .encode, .decode, .encodeUnit, .decodeUnit, .encLut, .decLut, .reserved] ∨
    (∃ n, exec i = lookEnc n) ∨ (∃ v, exec i = lookDec v) := by
  cases i
  case construct | nop | encode | decode | encodeUnit | decodeUnit | encLut | decLut | reserved =>
    exact .inl (by decide)
  case encRom0 | encRom1 | encRom2 | encRom3 | encRom4 | encRom5 | encRom6 | encRom7 | encRom8 | encRom9 | encRomA |
      encRomB | encRomC | encRomD | encRomE | encRomF =>
    exact .inr (.inl ⟨_, rfl⟩)
  all_goals exact .inr (.inr ⟨_, rfl⟩)

/-- Settles O45: reset shows nothing, a lookup or unit result is a function of its operands, and two buffer operations on
the same operands run in step. -/
theorem resultsDependOnTheOperandsAlone : Obligations.ResultsDependOnTheOperandsAlone := by
  intro i s s' t t' hi _ _ hinp h h'
  rw [sameResults_iff]
  rcases exec_row_cases i with hcmd | ⟨n, hrow⟩ | ⟨v, hrow⟩
  · cases i
    case construct =>
      obtain rfl : applyReset s = t := Host.Outcome.next.inj h
      obtain rfl : applyReset s' = t' := Host.Outcome.next.inj h'
      rw [hostView_of_done_none (applyReset_done s), hostView_of_done_none (applyReset_done s')]
    case nop => exact absurd rfl hi
    case encode =>
      obtain ⟨-, hrun⟩ := accept_next (show execEncode s = .next t from h)
      obtain ⟨-, hrun'⟩ := accept_next (show execEncode s' = .next t' from h')
      rw [beginCommand_inp] at hrun hrun'
      exact hostView_eq_of_runToDone .encode hinp.symm hrun (hinp ▸ hrun')
    case decode =>
      obtain ⟨-, hrun⟩ := accept_next (show execDecode s = .next t from h)
      obtain ⟨-, hrun'⟩ := accept_next (show execDecode s' = .next t' from h')
      rw [beginCommand_inp] at hrun hrun'
      exact hostView_eq_of_runToDone .decode hinp.symm hrun (hinp ▸ hrun')
    case encodeUnit => rw [hostView_of_execEncodeUnit h, hostView_of_execEncodeUnit h', hinp]
    case decodeUnit => rw [hostView_of_execDecodeUnit h, hostView_of_execDecodeUnit h', hinp]
    case encLut => rw [hostView_of_execEncLut h, hostView_of_execEncLut h', hinp]
    case decLut => rw [hostView_of_execDecLut h, hostView_of_execDecLut h', hinp]
    case reserved => exact absurd (show Host.Outcome.refused _ = .next t from h) (by simp)
    all_goals exact absurd hcmd (by decide)
  · rw [hrow] at h h'
    rw [hostView_of_lookEnc h, hostView_of_lookEnc h']
  · rw [hrow] at h h'
    rw [hostView_of_lookDec h, hostView_of_lookDec h']

/-! ### The tables (R12) -/

theorem decRom_encRom : ∀ n : Nibble, decRom (encRom n) = some n := by decide

theorem encRom_of_mem_decRom : ∀ v : CodeWord, ∀ n ∈ decRom v, encRom n = v := by decide

theorem encRom_mem_codeWords : ∀ n : Nibble, encRom n ∈ codeWords := by decide

/-- Settles O13: what the decode table holds at `v` encodes to `v`, so at no code word it holds nothing. -/
theorem decodeTableInvertsEncodeTable : Obligations.DecodeTableInvertsEncodeTable := by
  refine ⟨decRom_encRom, fun v n h => encRom_of_mem_decRom v n h, fun v hv => ?_⟩
  cases hd : decRom v with
  | none => rfl
  | some n => exact absurd (encRom_of_mem_decRom v n hd ▸ encRom_mem_codeWords n) hv

/-! ### Reset and power-up (R22, R175) -/

/-- Settles O22: there is no `done`, so there is nothing to read. -/
theorem resetStateIsIdleAndShowsNoResult : Obligations.ResetStateIsIdleAndShowsNoResult :=
  ⟨⟨rfl, rfl⟩, rfl, rfl, rfl, rfl, rfl, rfl, (hostView_eq_iff _ _).mp (hostView_of_done_none rfl)⟩

theorem State.busyOk.of_idle {s : State} (h : s.busy = false) : s.busyOk :=
  fun hb => absurd (h.symm.trans hb) (by decide)

theorem State.memoryOk.of_empty {s : State} (hout : s.out = []) (hin : s.inp.inMem = []) (hhost : s.host = []) :
    s.memoryOk :=
  ⟨hout ▸ Memory.wf_nil, hin ▸ Memory.wf_nil, by simp [hhost]⟩

/-- Settles O43: both states are idle, with no `done`, status 0 and empty byte spaces. -/
theorem resetMeetsTheInvariants : Obligations.ResetMeetsTheInvariants :=
  ⟨.of_empty rfl rfl rfl, .of_idle rfl, .of_noDone rfl rfl,
   .of_empty rfl rfl rfl, .of_idle rfl, .of_noDone rfl rfl⟩

end Sys2Proof.Machine
end

section
/-!
PROOFS of the family 20_memory.md: the canonical form of IN and OUT (R30, R42), what each command leaves of the buffers
(R31, R33, R35), the lengths of the results (R41), and the trailing bytes (R38 to R40).
-/

namespace Sys2Proof.Machine

/-! ### Commands that do not touch the buffers -/

/-- OUT, the ports with IN, the host's moves and the registers of the group steps (R16, R17) are the same in both states. -/
structure SameBuffers (s t : State) : Prop where
  out : t.out = s.out
  inp : t.inp = s.inp
  host : t.host = s.host
  outLen : t.outLen = s.outLen
  nIn : t.nIn = s.nIn
  g : t.g = s.g
  op : t.op = s.op
  busy : t.busy = s.busy
  constructed : t.constructed = s.constructed

/-- A lookup or unit operation writes its result port, `status` and `done` (R71, R72, R130, R140); a failed DECODE_UNIT
also clears `busy`, which a ready block had clear. -/
theorem exec_sameBuffers {i : Instr} {s t : State} (he : i ≠ .encode) (hd : i ≠ .decode) (hc : i ≠ .construct)
    (h : exec i s = .next t) : SameBuffers s t := by
  rcases exec_next_cases h with ⟨hi, -⟩ | ⟨-, rfl⟩ | ⟨⟨-, hidle⟩, hcmd⟩
  · exact absurd hi hc
  · constructor <;> rfl
  · rcases hcmd with ⟨c, rfl⟩ | ⟨e, rfl⟩ | ⟨-, rfl⟩ | ⟨-, x, -, rfl⟩ | ⟨-, -, rfl⟩ | ⟨hi, -⟩ | ⟨hi, -⟩
    · constructor <;> rfl
    · constructor <;> rfl
    · constructor <;> rfl
    · constructor <;> rfl
    · exact { out := rfl, inp := rfl, host := rfl, outLen := rfl, nIn := rfl, g := rfl, op := rfl, busy := hidle.symm,
              constructed := rfl }
    · exact absurd hi he
    · exact absurd hi hd

/-- Settles O32: the reads of OUT and IN are equal because the spaces are. -/
theorem lookupsAndUnitsLeaveBuffersAlone : Obligations.LookupsAndUnitsLeaveBuffersAlone := by
  intro i s t he hd hc h
  obtain ⟨out, inp, host, outLen, nIn, g, op, busy, constructed⟩ := exec_sameBuffers he hd hc h
  exact ⟨fun a => by rw [out], fun a => by rw [inp], out, inp, host, outLen, nIn, g, op, busy, constructed⟩

/-! ### One step of a buffer operation, whichever it is -/

/-- R37: the number of complete groups in `n` bytes of IN. -/
def BufferOp.groups : BufferOp → Nat → Nat
  | .encode => encodeGroups
  | .decode => decodeGroups

/-- R134, R145: the bytes of group `g` written to OUT, and the counters moved on. -/
def storeGroup (bs : List Byte) (s : State) : State :=
  { s with out := s.out.writeBytes (s.op.groupBytes * s.g) bs, outLen := s.outLen + s.op.groupBytes, g := s.g + 1 }

theorem encodeGroup_eq_storeGroup {s : State} (h : s.op = .encode) (x : G32) :
    encodeGroup x s = storeGroup (bytesOfQ (encodeUnit x)) s := by
  simp [encodeGroup, storeGroup, h, BufferOp.groupBytes, encodeOutAddr]

theorem decodeGroup_eq_storeGroup {s : State} (h : s.op = .decode) (x : G32) :
    decodeGroup x s = storeGroup (bytesOfG x) s := by
  simp [decodeGroup, storeGroup, h, BufferOp.groupBytes, decodeOutAddr]

/-- What a busy block's step can do, without regard to the values: store one group below the last, fail, or finish at the
last group. -/
theorem busyStep_next_cases {s t : State} (h : busyStep s = .next t) :
    (s.g < s.op.groups s.nIn ∧ ∃ bs, bs.length = s.op.groupBytes ∧ t = storeGroup bs s) ∨
    t = takeInvalidCodeWord .decode s ∨
    (s.g = s.op.groups s.nIn ∧ ∃ o, t = finishBuffer o s) := by
  rcases busyStep_next h with ⟨ho, h⟩ | ⟨ho, h⟩ <;> rw [ho]
  · rcases encodeStep_next h with ⟨x, hg, -, rfl⟩ | ⟨hg, rfl⟩
    · exact .inl ⟨hg, _, rfl, encodeGroup_eq_storeGroup ho x⟩
    · exact .inr (.inr ⟨hg, _, rfl⟩)
  · rcases decodeStep_next h with ⟨q, x, hg, -, -, rfl⟩ | ⟨q, -, -, -, rfl⟩ | ⟨hg, rfl⟩
    · exact .inl ⟨hg, _, rfl, decodeGroup_eq_storeGroup ho x⟩
    · exact .inr (.inl rfl)
    · exact .inr (.inr ⟨hg, _, rfl⟩)

/-! ### The canonical form of the byte spaces (R30, R42) -/

/-- The form is a property of OUT, the ports and the host's moves alone. -/
theorem State.memoryOk.of_eq {s t : State} (h : s.memoryOk) (hout : t.out = s.out) (hinp : t.inp = s.inp)
    (hhost : t.host = s.host) : t.memoryOk := by
  rwa [State.memoryOk, hout, hinp, hhost]

/-- The form of OUT matters only where OUT changes. -/
theorem State.memoryOk.of_out {s t : State} (h : s.memoryOk) (hout : t.out.wf = true) (hinp : t.inp = s.inp)
    (hhost : t.host = s.host) : t.memoryOk := by
  obtain ⟨-, hin, hmoves⟩ := h
  exact ⟨hout, hinp ▸ hin, hhost ▸ hmoves⟩

/-- Idle ports hold the old IN, and a host move brings an IN that has the form. -/
theorem present_memoryOk {s : State} (h : s.memoryOk) : (present s).memoryOk := by
  obtain ⟨hout, hin, hmoves⟩ := h
  rcases nextPresentation_cases s with ⟨hp, hrest⟩ | ⟨p, rest, hhost, hp⟩
  · exact ⟨hout, by rw [present_inp, hp]; exact hin, by rw [present_host, hrest]; exact hmoves⟩
  · rw [hhost] at hmoves
    refine ⟨hout, ?_, fun m hm => hmoves m ?_⟩
    · rw [present_inp, hp]; exact hmoves p List.mem_cons_self
    · rw [present_host, hp] at hm; exact List.mem_cons_of_mem p hm

theorem startBuffer_memoryOk (o : BufferOp) {s : State} (h : s.memoryOk) : (startBuffer o (beginCommand s)).memoryOk :=
  h.of_eq rfl rfl rfl

/-- OUT changes by a write in address order (R42), or loses its values (D14). -/
theorem busyStep_keeps_memoryOk (s t : State) (_ : s.busy = true) (hi : s.memoryOk) (h : busyStep s = .next t) :
    t.memoryOk := by
  rcases busyStep_next_cases h with ⟨-, bs, -, rfl⟩ | rfl | ⟨-, o, rfl⟩
  · exact hi.of_out (Memory.wf_writeBytes hi.1 _ bs) rfl rfl
  · exact hi.of_out Memory.wf_nil rfl rfl
  · exact hi.of_eq rfl rfl rfl

theorem applyReset_memoryOk {s : State} (h : s.memoryOk) : (applyReset s).memoryOk := by
  refine h.of_out ?_ rfl rfl
  rw [applyReset_out]
  split
  · exact Memory.wf_nil
  · exact h.1

/-- An ENCODE that answers is a started ENCODE run to its `done` (R132). -/
theorem exec_encode_next {s t : State} (h : exec .encode s = .next t) :
    runToDone (BufferOp.encode.groups s.inp.inLen + 1) (startBuffer .encode (beginCommand s)) = .next t :=
  (accept_next (show execEncode s = .next t from h)).2

/-- A DECODE that answers is a started DECODE run to its `done` (R142). -/
theorem exec_decode_next {s t : State} (h : exec .decode s = .next t) :
    runToDone (BufferOp.decode.groups s.inp.inLen + 1) (startBuffer .decode (beginCommand s)) = .next t :=
  (accept_next (show execDecode s = .next t from h)).2

theorem exec_keeps_memoryOk {i : Instr} {s t : State} (hi : s.memoryOk) (h : exec i s = .next t) : t.memoryOk := by
  by_cases hc : i = .construct
  · subst hc
    exact Host.Outcome.next.inj h ▸ applyReset_memoryOk hi
  · by_cases he : i = .encode
    · subst he
      exact runToDone_keeps busyStep_keeps_memoryOk (startBuffer_memoryOk _ hi) (exec_encode_next h)
    · by_cases hd : i = .decode
      · subst hd
        exact runToDone_keeps busyStep_keeps_memoryOk (startBuffer_memoryOk _ hi) (exec_decode_next h)
      · have hsame := exec_sameBuffers he hd hc h
        exact hi.of_eq hsame.out hsame.inp hsame.host

/-- Settles O40, by the three things a step can be on the presented state. -/
theorem everyStepKeepsTheMemoryForm : Obligations.EveryStepKeepsTheMemoryForm := by
  intro s t hi h
  have hp := present_memoryOk hi
  rcases step_next h with ⟨i, -, h⟩ | ⟨o, h⟩ | ⟨hb, -, h⟩
  · exact exec_keeps_memoryOk hp h
  · obtain ⟨-, rfl⟩ := startOnly_next h
    exact startBuffer_memoryOk o hp
  · exact busyStep_keeps_memoryOk (present s) t hb hp h

/-! ### A whole buffer operation: its length and its frame (R33, R35, R41) -/

/-- Where the run of a buffer operation stands, `s` before the command and `t` now. Unless it failed, OUT is as it was from
`out_len` on, `out_len` is the bytes of the groups so far, and an ended run has done all groups. -/
structure BufferRun (o : BufferOp) (s t : State) : Prop where
  op : t.op = o
  nIn : t.nIn = s.inp.inLen
  inp : t.inp = s.inp
  host : t.host = s.host
  outLen : t.status = .ok → t.outLen = o.groupBytes * t.g
  allGroups : t.status = .ok → t.busy = false → t.g = o.groups s.inp.inLen
  out : t.status = .ok → ∀ a, t.outLen ≤ a → t.out.read a = s.out.read a

theorem BufferRun.of_start (o : BufferOp) (s : State) : BufferRun o s (startBuffer o (beginCommand s)) where
  op := rfl
  nIn := rfl
  inp := rfl
  host := rfl
  outLen := fun _ => rfl
  allGroups := fun _ hb => absurd hb (by simp)
  out := fun _ _ _ => rfl

section

variable {o : BufferOp} {s t : State}

/-- A group is stored directly above the groups before it. -/
theorem BufferRun.after_storeGroup (h : BufferRun o s t) (hb : t.busy = true) {bs : List Byte}
    (hlen : bs.length = t.op.groupBytes) : BufferRun o s (storeGroup bs t) :=
  { h with
    outLen := fun hs => by
      show t.outLen + t.op.groupBytes = o.groupBytes * (t.g + 1)
      rw [h.outLen hs, h.op, Nat.mul_succ]
    allGroups := fun _ hidle => absurd (hb.symm.trans hidle) (by decide)
    out := fun hs a (ha : t.outLen + t.op.groupBytes ≤ a) => by
      show (t.out.writeBytes (t.op.groupBytes * t.g) bs).read a = s.out.read a
      have haddr : t.op.groupBytes * t.g = t.outLen := by rw [h.op, h.outLen hs]
      rw [haddr, Memory.read_writeBytes_outside _ _ _ _ (.inr (hlen ▸ ha)), h.out hs a (by omega)] }

theorem BufferRun.after_takeInvalidCodeWord (h : BufferRun o s t) : BufferRun o s (takeInvalidCodeWord .decode t) :=
  { h with
    outLen := fun hs => absurd hs (by simp)
    allGroups := fun hs => absurd hs (by simp)
    out := fun hs => absurd hs (by simp) }

theorem BufferRun.after_finishBuffer (h : BufferRun o s t) (hg : t.g = t.op.groups t.nIn) (d : Operation) :
    BufferRun o s (finishBuffer d t) :=
  { h with allGroups := fun _ _ => by rw [finishBuffer_g, hg, h.op, h.nIn] }

theorem busyStep_keeps_bufferRun (t u : State) (hb : t.busy = true) (h : BufferRun o s t) (hu : busyStep t = .next u) :
    BufferRun o s u := by
  rcases busyStep_next_cases hu with ⟨-, bs, hlen, rfl⟩ | rfl | ⟨hg, d, rfl⟩
  · exact h.after_storeGroup hb hlen
  · exact h.after_takeInvalidCodeWord
  · exact h.after_finishBuffer hg d

/-- A run with one step for each group left and one more to finish ends idle. -/
theorem runToDone_idle {n : Nat}
    (hn : s.busy = true → s.g ≤ s.op.groups s.nIn ∧ s.op.groups s.nIn < s.g + n)
    (h : runToDone n s = .next t) : t.busy = false := by
  induction n generalizing s with
  | zero =>
    obtain rfl : s = t := Host.Outcome.next.inj h
    cases hb : s.busy with
    | false => rfl
    | true => have := hn hb; omega
  | succ n ih =>
    rcases runToDone_succ_next h with ⟨hb, rfl⟩ | ⟨hb, u, hu, h⟩
    · exact hb
    · refine ih (fun hub => ?_) h
      rcases busyStep_next_cases hu with ⟨hlt, bs, -, rfl⟩ | rfl | ⟨-, d, rfl⟩
      · have := hn hb
        show s.g + 1 ≤ s.op.groups s.nIn ∧ s.op.groups s.nIn < s.g + 1 + n
        omega
      · exact absurd hub (by simp)
      · exact absurd hub (by simp)

theorem bufferRun_of_runToDone
    (h : runToDone (o.groups s.inp.inLen + 1) (startBuffer o (beginCommand s)) = .next t) :
    BufferRun o s t :=
  runToDone_keeps busyStep_keeps_bufferRun (.of_start o s) h

/-- The length of a result that is not a failure (R41). -/
theorem outLen_of_runToDone
    (h : runToDone (o.groups s.inp.inLen + 1) (startBuffer o (beginCommand s)) = .next t) (hs : t.status = .ok) :
    t.outLen = o.groupBytes * o.groups s.inp.inLen := by
  have hrun := bufferRun_of_runToDone h
  have hidle : t.busy = false := runToDone_idle (fun _ => ⟨Nat.zero_le _, by simp⟩) h
  rw [hrun.outLen hs, hrun.allGroups hs hidle]

/-- Groups of `n` bytes leave no gap: what lies in none of the first `k` lies above them all. -/
theorem mul_le_of_outside_groups {n k a : Nat} (h : ∀ g, g < k → a < n * g ∨ n * g + n ≤ a) : n * k ≤ a := by
  induction k with
  | zero => simp
  | succ k ih =>
    have hbelow := ih fun g hg => h g (by omega)
    have hk := h k (by omega)
    rw [Nat.mul_succ]
    omega

/-- An address in no group of the result reads as before the command. -/
theorem read_out_of_runToDone
    (h : runToDone (o.groups s.inp.inLen + 1) (startBuffer o (beginCommand s)) = .next t) (hs : t.status = .ok) {a : Nat}
    (ha : ∀ g, g < o.groups s.inp.inLen → a < o.groupBytes * g ∨ o.groupBytes * g + o.groupBytes ≤ a) :
    t.out.read a = s.out.read a :=
  (bufferRun_of_runToDone h).out hs a (outLen_of_runToDone h hs ▸ mul_le_of_outside_groups ha)

/-- ENCODE never fails (R132). -/
theorem exec_encode_status_ok (h : exec .encode s = .next t) : t.status = .ok := by
  obtain ⟨-, hok⟩ : EncodingOk t := runToDone_keeps busyStep_keeps_encodingOk ⟨rfl, rfl⟩ (exec_encode_next h)
  exact hok

end

/-- Settles O31: each operation is a run, which writes OUT below `out_len` only, and its groups fill what lies below. -/
theorem bufferOperationsWriteOnlyTheirResult : Obligations.BufferOperationsWriteOnlyTheirResult := by
  refine ⟨fun s t h => ?encode, fun s t h => ?decode⟩
  case encode =>
    have hrun := exec_encode_next h
    have hend := bufferRun_of_runToDone hrun
    exact ⟨hend.inp, hend.host, fun a ha => read_out_of_runToDone hrun (exec_encode_status_ok h) ha⟩
  case decode =>
    have hrun := exec_decode_next h
    have hend := bufferRun_of_runToDone hrun
    exact ⟨hend.inp, hend.host, fun hs a ha => read_out_of_runToDone hrun hs ha⟩

/-! ### The codec on whole groups and on what is left over (R37 to R41) -/

/-- Fewer than 4 bytes hold no group to encode (R38). -/
theorem encodeBytes_of_short : ∀ {r : List Byte}, r.length < 4 → encodeBytes r = []
  | [], _ | [_], _ | [_, _], _ | [_, _, _], _ => rfl
  | _ :: _ :: _ :: _ :: _, h => absurd h (by simp)

/-- Fewer than 5 bytes hold no group to decode, so none fails (R39). -/
theorem decodeBytes_of_short : ∀ {r : List Byte}, r.length < 5 → decodeBytes r = some []
  | [], _ | [_], _ | [_, _], _ | [_, _, _], _ | [_, _, _, _], _ => rfl
  | _ :: _ :: _ :: _ :: _ :: _, h => absurd h (by simp)

theorem encodeBytes_group (b0 b1 b2 b3 : Byte) (bs : List Byte) :
    encodeBytes (b0 :: b1 :: b2 :: b3 :: bs) = bytesOfQ (encodeUnit (b0 ++ b1 ++ b2 ++ b3)) ++ encodeBytes bs := rfl

/-- A first group decodes before the rest, and either may fail (R142, R143). -/
theorem decodeBytes_group (c0 c1 c2 c3 c4 : Byte) (cs : List Byte) :
    decodeBytes (c0 :: c1 :: c2 :: c3 :: c4 :: cs) =
      (decodeUnit (c0 ++ c1 ++ c2 ++ c3 ++ c4)).bind fun x => (decodeBytes cs).map (bytesOfG x ++ ·) := by
  rw [decodeBytes]
  cases decodeUnit (c0 ++ c1 ++ c2 ++ c3 ++ c4) <;> cases decodeBytes cs <;> rfl

/-- Whole groups encode on their own, whatever follows them (R132). -/
theorem encodeBytes_append : ∀ {bs : List Byte} (r : List Byte), bs.length % 4 = 0 →
    encodeBytes (bs ++ r) = encodeBytes bs ++ encodeBytes r
  | [], _, _ => rfl
  | [_], _, h | [_, _], _, h | [_, _, _], _, h => absurd h (by simp)
  | b0 :: b1 :: b2 :: b3 :: bs, r, h => by
    have hbs : bs.length % 4 = 0 := (Nat.add_mod_right bs.length 4).symm.trans h
    simp only [List.cons_append, encodeBytes_group, encodeBytes_append r hbs, List.append_assoc]

/-- Whole groups decode on their own, whatever follows them; either part may fail (R142, R143). -/
theorem decodeBytes_append : ∀ {cs : List Byte} (r : List Byte), cs.length % 5 = 0 →
    decodeBytes (cs ++ r) = (decodeBytes cs).bind fun x => (decodeBytes r).map (x ++ ·)
  | [], r, _ => by simp [decodeBytes_of_short]
  | [_], _, h | [_, _], _, h | [_, _, _], _, h | [_, _, _, _], _, h => absurd h (by simp)
  | c0 :: c1 :: c2 :: c3 :: c4 :: cs, r, h => by
    have hcs : cs.length % 5 = 0 := (Nat.add_mod_right cs.length 5).symm.trans h
    simp only [List.cons_append, decodeBytes_group, decodeBytes_append r hcs]
    cases decodeUnit (c0 ++ c1 ++ c2 ++ c3 ++ c4) <;> cases decodeBytes cs <;> cases decodeBytes r <;> simp

/-- Settles O49: the bytes left over are an input of their own that holds no group. -/
theorem trailingBytesAreDropped : Obligations.TrailingBytesAreDropped := by
  refine ⟨fun bs r hbs hr => ?_, fun cs r hcs hr => ?_, fun r => encodeBytes_of_short, fun r => decodeBytes_of_short⟩
  · rw [encodeBytes_append r hbs, encodeBytes_of_short hr, List.append_nil]
  · rw [decodeBytes_append r hcs, decodeBytes_of_short hr]
    simp

theorem length_encodeBytes : ∀ bs : List Byte, (encodeBytes bs).length = bs.length / 4 * 5
  | [] | [_] | [_, _] | [_, _, _] => by simp [encodeBytes_of_short]
  | b0 :: b1 :: b2 :: b3 :: bs => by
    rw [encodeBytes_group, List.length_append, length_encodeBytes bs]
    simp only [bytesOfQ, List.length_cons, List.length_nil]
    omega

theorem length_decodeBytes : ∀ {cs ys : List Byte}, decodeBytes cs = some ys → ys.length = cs.length / 5 * 4
  | [], ys, h | [_], ys, h | [_, _], ys, h | [_, _, _], ys, h | [_, _, _, _], ys, h => by
    obtain rfl : [] = ys := Option.some.inj h
    simp
  | c0 :: c1 :: c2 :: c3 :: c4 :: cs, ys, h => by
    rw [decodeBytes_group] at h
    obtain ⟨x, -, h⟩ := Option.bind_eq_some_iff.mp h
    obtain ⟨zs, hzs, rfl⟩ := Option.map_eq_some_iff.mp h
    rw [List.length_append, length_decodeBytes hzs]
    simp only [bytesOfG, List.length_cons, List.length_nil]
    omega

/-- Settles O29: the registers by the run of each operation, the sequences group by group. -/
theorem resultLengths : Obligations.ResultLengths := by
  refine ⟨fun s t h => ?_, fun s t h hs => ?_, length_encodeBytes, fun cs ys => length_decodeBytes⟩
  · rw [outLen_of_runToDone (exec_encode_next h) (exec_encode_status_ok h), Nat.mul_comm]
    rfl
  · rw [outLen_of_runToDone (exec_decode_next h) hs, Nat.mul_comm]
    rfl

end Sys2Proof.Machine
end

section
/-!
PROOFS of the family 30_encoding.md: the operand formats of a byte and of a group (R51 to R54), the opcode table read and
written (R58), what a step does with the instruction it decodes (R58), and the reserved command (R59).
-/

namespace Sys2Proof.Machine

/-! ### Parts of a bit vector -/

/-- A part of a part is a part of the whole. -/
theorem extractLsb'_extractLsb' {w : Nat} (x : BitVec w) {k len a n : Nat} (h : a + n ≤ len) :
    (x.extractLsb' k len).extractLsb' a n = x.extractLsb' (k + a) n := by
  ext i hi
  have hlt : a + i < len := by omega
  simp [hlt, Nat.add_assoc]

/-- Bits `[k + n - 1 : k]` are what shifting right by `k` and masking with `n` ones leaves (R51, R53). -/
theorem setWidth_extractLsb' {w : Nat} (x : BitVec w) (k : Nat) {n : Nat} (h : n ≤ w) :
    (x.extractLsb' k n).setWidth w = (x >>> k) &&& BitVec.ofNat w (2 ^ n - 1) := by
  have hlt : 2 ^ n - 1 < 2 ^ w :=
    Nat.lt_of_lt_of_le (Nat.sub_lt (Nat.two_pow_pos n) Nat.one_pos) (Nat.pow_le_pow_right (by decide) h)
  apply BitVec.eq_of_toNat_eq
  rw [BitVec.toNat_setWidth_of_le h, BitVec.extractLsb'_toNat, BitVec.toNat_and, BitVec.toNat_ushiftRight,
    BitVec.toNat_ofNat, Nat.mod_eq_of_lt hlt, Nat.and_two_pow_sub_one_eq_mod]

/-! ### The two nibbles of a byte (R51) -/

theorem pairNibbles_hiNibble_loNibble (x : Byte) : pairNibbles (hiNibble x) (loNibble x) = x :=
  BitVec.extractLsb'_append_extractLsb'

theorem pairNibbles_eq_or (hi lo : Nibble) : pairNibbles hi lo = (hi.setWidth 8 <<< 4) ||| lo.setWidth 8 := by
  rw [← BitVec.setWidth_append_eq_shiftLeft_setWidth_or]
  exact (BitVec.setWidth_eq _).symm

/-- Settles O53: nothing lies above the high nibble, so shifting leaves it alone, and the low one is what the mask keeps. -/
theorem bytesSplitIntoNibbles : Obligations.BytesSplitIntoNibbles := by
  intro x
  have hhi : (hiNibble x).setWidth 8 = x >>> 4 := by
    rw [BitVec.setWidth_eq_append (by decide), BitVec.ushiftRight_eq_extractLsb'_of_lt (by decide)]
    rfl
  have hlo : (loNibble x).setWidth 8 = x &&& 0xF#8 := by
    rw [loNibble, setWidth_extractLsb' x 0 (by decide), BitVec.ushiftRight_zero]
    rfl
  exact ⟨hhi, hlo, rfl, rfl, (pairNibbles_hiNibble_loNibble x).symm, pairNibbles_eq_or _ _⟩

/-! ### The 8 fields of an encoded group (R52, R53) -/

/-- The fields of an encoded group, the most significant one first. -/
def fieldsOf (q : Q40) : List CodeWord := (List.range 8).map (fieldOf q)

/-- The nibbles of a decoded group, the most significant one first. -/
def nibblesOf (x : G32) : List Nibble := (List.range 8).map (nibbleOf x)

theorem getElem?_fieldsOf (q : Q40) {j : Nat} (h : j < 8) : (fieldsOf q)[j]? = some (fieldOf q j) := by
  simp [fieldsOf, h]

/-- Packing 8 code words and cutting the group into its fields gives them back. -/
theorem fieldsOf_packFields (c0 c1 c2 c3 c4 c5 c6 c7 : CodeWord) :
    fieldsOf (packFields c0 c1 c2 c3 c4 c5 c6 c7) = [c0, c1, c2, c3, c4, c5, c6, c7] := by
  simp (disch := decide) only [fieldsOf, List.range, List.range.loop, List.map_cons, List.map_nil, fieldOf, packFields,
    Nat.reduceMul, Nat.reduceSub, BitVec.extractLsb'_append_eq_of_le, BitVec.extractLsb'_append_eq_right,
    BitVec.extractLsb'_eq_self]

/-- ENCODE_UNIT looks up each nibble in its place (R130). -/
theorem fieldsOf_encodeUnit (x : G32) : fieldsOf (encodeUnit x) = (nibblesOf x).map encRom :=
  fieldsOf_packFields ..

/-- The nibbles of 4 bytes in buffer order: each byte's high one first (R51, R52). -/
theorem nibblesOf_append (b0 b1 b2 b3 : Byte) :
    nibblesOf (b0 ++ b1 ++ b2 ++ b3) =
      [hiNibble b0, loNibble b0, hiNibble b1, loNibble b1, hiNibble b2, loNibble b2, hiNibble b3, loNibble b3] := by
  simp (disch := decide) only [nibblesOf, List.range, List.range.loop, List.map_cons, List.map_nil, nibbleOf, hiNibble,
    loNibble, Nat.reduceMul, Nat.reduceSub, BitVec.extractLsb'_append_eq_of_le, BitVec.extractLsb'_append_eq_of_add_le]

/-- Settles O52: the fields of a packed group are its code words, and those of an encoded group the code words of its
nibbles. -/
theorem fieldsOfAnEncodedGroup : Obligations.FieldsOfAnEncodedGroup := by
  refine ⟨fun c0 c1 c2 c3 c4 c5 c6 c7 => ⟨rfl, fun j hj => ?packed⟩, fun q j _ => ?masked,
    fun b0 b1 b2 b3 j hj => ?encoded⟩
  case packed =>
    rw [← fieldsOf_packFields c0 c1 c2 c3 c4 c5 c6 c7, getElem?_fieldsOf _ hj]
    rfl
  case masked => exact setWidth_extractLsb' q (35 - 5 * j) (by decide)
  case encoded =>
    have hfields := fieldsOf_encodeUnit (b0 ++ b1 ++ b2 ++ b3)
    rw [nibblesOf_append] at hfields
    exact (getElem?_fieldsOf _ hj).symm.trans (congrArg (·[j]?) hfields)

/-! ### The 5 bytes of an encoded group (R54) -/

/-- Bits of a field are bits of the group. -/
theorem extractLsb'_fieldOf (q : Q40) (j : Nat) {a n : Nat} (h : a + n ≤ 5) :
    (fieldOf q j).extractLsb' a n = q.extractLsb' (35 - 5 * j + a) n :=
  extractLsb'_extractLsb' q h

/-- Where the fields of a group meet inside its bytes: a byte is the parts of the fields it crosses, side by side. -/
theorem bytesOfQ_eq_fields (q : Q40) :
    bytesOfQ q =
      [fieldOf q 0 ++ (fieldOf q 1).extractLsb' 2 3,
       (fieldOf q 1).extractLsb' 0 2 ++ fieldOf q 2 ++ (fieldOf q 3).extractLsb' 4 1,
       (fieldOf q 3).extractLsb' 0 4 ++ (fieldOf q 4).extractLsb' 1 4,
       (fieldOf q 4).extractLsb' 0 1 ++ fieldOf q 5 ++ (fieldOf q 6).extractLsb' 3 2,
       (fieldOf q 6).extractLsb' 0 3 ++ fieldOf q 7] := by
  simp (disch := decide) only [extractLsb'_fieldOf]
  simp (disch := decide) only [fieldOf, BitVec.extractLsb'_append_extractLsb'_eq_extractLsb']
  rfl

/-- Settles O54: the fields that the bytes of a packed group cut are its code words. -/
theorem codeWordsStraddleTheBytes : Obligations.CodeWordsStraddleTheBytes := by
  intro c0 c1 c2 c3 c4 c5 c6 c7
  have hfields := fieldsOf_packFields c0 c1 c2 c3 c4 c5 c6 c7
  obtain ⟨h0, h1, h2, h3, h4, h5, h6, h7⟩ := by simpa [fieldsOf, List.range_succ] using hfields
  rw [bytesOfQ_eq_fields, h0, h1, h2, h3, h4, h5, h6, h7]

/-! ### The opcode table, written and read (R58) -/

/-- The row read from the byte that `encodeWord` writes for a row is that row. -/
theorem decodeWord_encodeWord (i : Instr) : decodeWord (encodeWord i) = some i := by
  cases i <;> rfl

/-- A byte is decoded as the row it names, and leaves what follows it. -/
theorem decode_cons_of_decodeWord {w : Byte} {i : Instr} (h : decodeWord w = some i) (rest : List Byte) :
    decode (w :: rest) = .ok (i, rest) := by
  simp only [decode, h]

/-- The table-word decoder reads the byte that carries the word. -/
theorem decodeTableWord_eq (nbits w : Nat) : decodeTableWord nbits w = decodeWord (layoutWord nbits w) := by
  cases h : decodeWord (layoutWord nbits w) <;> simp [decodeTableWord, decode, h]

theorem layoutWord_toNat (w : Byte) : layoutWord 8 w.toNat = w := by
  rw [layoutWord, Nat.mod_eq_of_lt w.isLt, BitVec.ofNat_toNat, BitVec.setWidth_eq]

theorem decodeTableWord_encodeWord (i : Instr) : decodeTableWord 8 (encodeWord i).toNat = some i := by
  rw [decodeTableWord_eq, layoutWord_toNat, decodeWord_encodeWord]

/-- Settles O1: one byte is written, and both decoders read it with `decodeWord`. -/
theorem encodedInstructionDecodesBack : Obligations.EncodedInstructionDecodesBack := fun i rest =>
  ⟨decode_cons_of_decodeWord (decodeWord_encodeWord i) rest, decodeTableWord_encodeWord i⟩

/-- The four formats a byte can have, by its upper half (log 3). -/
theorem decodeWord_cases {w : Byte} {i : Instr} (h : decodeWord w = some i) :
    ∃ v : BitVec 4,
      (w = 0b0000#4 ++ v ∧ i = selectorOf v) ∨ (w = 0b0001#4 ++ v ∧ i = decRomRow (1#1 ++ v)) ∨
      (w = 0b0100#4 ++ v ∧ i = encRomRow v) ∨ (w = 0b1000#4 ++ v ∧ i = decRomRow (0#1 ++ v)) := by
  have hw : w = w.extractLsb' 4 4 ++ w.extractLsb' 0 4 := (pairNibbles_hiNibble_loNibble w).symm
  have htag {k : Nat} (hk : (w.extractLsb' 4 4).toNat = k) : w = BitVec.ofNat 4 k ++ w.extractLsb' 0 4 := by
    rw [← hk, BitVec.ofNat_toNat, BitVec.setWidth_eq]
    exact hw
  refine ⟨w.extractLsb' 0 4, ?_⟩
  unfold decodeWord at h
  split at h
  next hk => exact .inl ⟨htag hk, (Option.some.inj h).symm⟩
  next hk => exact .inr (.inl ⟨htag hk, (Option.some.inj h).symm⟩)
  next hk => exact .inr (.inr (.inl ⟨htag hk, (Option.some.inj h).symm⟩))
  next hk => exact .inr (.inr (.inr ⟨htag hk, (Option.some.inj h).symm⟩))
  next => exact absurd h (by simp)

/-- The bits under a mask of `n` ones are the low part. -/
theorem toNat_append_and_ones {m n : Nat} (x : BitVec m) (y : BitVec n) : (x ++ y).toNat &&& (2 ^ n - 1) = y.toNat := by
  rw [Nat.and_two_pow_sub_one_eq_mod, ← BitVec.toNat_setWidth, BitVec.setWidth_append_eq_right]

/-- A CMD row fixes all of `rst, cmd`, or `rst` alone where it is 1 (R58, R180). -/
theorem and_tableRow_selectorOf : ∀ v : BitVec 4,
    (0b0000#4 ++ v).toNat &&& (tableRow (selectorOf v)).1 = (tableRow (selectorOf v)).2 := by decide

/-- An ENC_ROM row fixes the 4 bits of its index (R75 to R90). -/
theorem tableRow_encRomRow : ∀ n : Nibble, tableRow (encRomRow n) = (2 ^ 4 - 1, n.toNat) := by decide

/-- A DEC_ROM row fixes the 5 bits of its index (R91 to R122). -/
theorem tableRow_decRomRow : ∀ v : CodeWord, tableRow (decRomRow v) = (2 ^ 5 - 1, v.toNat) := by decide

/-- Settles O2, format by format: the tag lies above the mask, so what is left is `rst, cmd` or the index of the row. -/
theorem decodedWordHasItsRowsBits : Obligations.DecodedWordHasItsRowsBits := by
  intro w i h
  obtain ⟨v, ⟨rfl, rfl⟩ | ⟨rfl, rfl⟩ | ⟨rfl, rfl⟩ | ⟨rfl, rfl⟩⟩ := decodeWord_cases h
  · exact and_tableRow_selectorOf v
  · have hword : 0b0001#4 ++ v = 0b000#3 ++ (1#1 ++ v) := BitVec.append_assoc (x₁ := 0b000#3) (x₂ := 1#1) (x₃ := v)
    rw [hword, tableRow_decRomRow]
    exact toNat_append_and_ones _ _
  · rw [tableRow_encRomRow]
    exact toNat_append_and_ones _ _
  · have hword : 0b1000#4 ++ v = 0b100#3 ++ (0#1 ++ v) := BitVec.append_assoc (x₁ := 0b100#3) (x₂ := 0#1) (x₃ := v)
    rw [hword, tableRow_decRomRow]
    exact toNat_append_and_ones _ _

/-- With nothing above it, a selector word is read by the operation map (R58). -/
theorem decodeWord_selector (v : BitVec 4) : decodeWord (0b0000#4 ++ v) = some (selectorOf v) := by
  have htag : (0b0000#4 ++ v).extractLsb' 4 4 = 0b0000#4 := BitVec.extractLsb'_append_eq_left
  have hlow : (0b0000#4 ++ v).extractLsb' 0 4 = v := BitVec.extractLsb'_append_eq_right
  unfold decodeWord
  rw [htag, hlow]
  rfl

/-- `cmd` is ignored while `rst = 1` (R180). -/
theorem selectorOf_rst (cmd : BitVec 3) : selectorOf (1#1 ++ cmd) = .construct := by
  have hrst : (1#1 ++ cmd).getLsbD 3 = true := by rw [BitVec.getLsbD_append]; rfl
  rw [selectorOf, if_pos hrst]

/-- Settles O3: the eight words with `rst = 0` are the ones the encoder writes, and with `rst = 1` no `cmd` is read. -/
theorem commandWordsDecode : Obligations.CommandWordsDecode := by
  refine ⟨decodeTableWord_encodeWord .nop, decodeTableWord_encodeWord .encode, decodeTableWord_encodeWord .decode,
    decodeTableWord_encodeWord .encodeUnit, decodeTableWord_encodeWord .decodeUnit, decodeTableWord_encodeWord .encLut,
    decodeTableWord_encodeWord .decLut, decodeTableWord_encodeWord .reserved, fun cmd => ?_⟩
  have hword : 0b00001#5 ++ cmd = 0b0000#4 ++ (1#1 ++ cmd) := BitVec.append_assoc (x₁ := 0b0000#4) (x₂ := 1#1) (x₃ := cmd)
  rw [hword, decodeWord_selector, selectorOf_rst]

/-! ### The step on a presented instruction (R58) -/

/-- The presented instruction is fetched to be run, unless it is NOP on a busy block or a buffer operation to be run group
by group. -/
theorem fetch_eq_run {s : State} {i : Instr} (hi : decodeWord (nextPresentation s).1.inp.sel = some i)
    (hnop : s.busy = false ∨ i ≠ .nop)
    (hwhole : (nextPresentation s).1.stepwise = false ∨ (i ≠ .encode ∧ i ≠ .decode)) :
    fetch s = .run i (present s) := by
  simp only [fetch, hi]
  cases i
  case nop => simp [hnop.resolve_right (by simp)]
  case encode => simp [hwhole.resolve_right (by simp)]
  case decode => simp [hwhole.resolve_right (by simp)]
  all_goals rfl

/-- Settles O4: what is fetched to be run is executed. -/
theorem stepRunsTheDecodedInstruction : Obligations.StepRunsTheDecodedInstruction := by
  intro s i hi hnop hwhole
  rw [step, fetch_eq_run hi hnop hwhole]
  rfl

/-- The move that `withFetchWord` puts first falls on the next step, since the block is idle. -/
theorem nextPresentation_withFetchWord (s : State) (nbits w : Nat) :
    nextPresentation (s.withFetchWord nbits w) =
      ({ inp := { s.inp with sel := layoutWord nbits w }, atOnce := true, stepwise := false }, s.host) :=
  nextPresentation_head rfl (.inl rfl)

/-- Settles O6, as a step on an idle block whose move is not stepwise. -/
theorem fetchWordRunsNext : Obligations.FetchWordRunsNext := by
  intro s nbits w i hi
  rw [decodeTableWord_eq] at hi
  have hpres := nextPresentation_withFetchWord s nbits w
  rw [stepRunsTheDecodedInstruction _ i (by rw [hpres]; exact hi) (.inl rfl) (.inl (by rw [hpres])), hpres]
  rfl

/-! ### The reserved command (R59) -/

/-- Settles O23: the reserved command is decoded and run like any other, and its meaning is the refusal. -/
theorem reservedCommandIsRefused : Obligations.ReservedCommandIsRefused := by
  refine ⟨fun _ => rfl, fun s hsel => ?_⟩
  have hi : decodeWord (nextPresentation s).1.inp.sel = some .reserved := by
    rw [hsel]
    exact decodeWord_encodeWord .reserved
  rw [stepRunsTheDecodedInstruction s .reserved hi (.inr (by decide)) (.inr (by decide))]
  rfl

end Sys2Proof.Machine
end

section
/-!
PROOFS of the family 40_code_table.md: the two tables entry by entry, the construction they come from and the runs of equal
bits in what they encode (R70, R73 to R122), the lookups (R71, R72), and CONSTRUCT (R70).
-/

namespace Sys2Proof.Machine

/-! ### Runs of equal bits across blocks -/

/-- A block of a bit stream that bounds the runs of `b` in it: at most `p` at its start and at most `t` at its end, where
another block may continue them, and at most `p + t` inside. -/
structure RunsWithin (b : Bool) (p t : Nat) (w : List Bool) : Prop where
  longer : p < w.length
  start : ¬ List.replicate (p + 1) b <+: w
  stop : ¬ List.replicate (t + 1) b <:+ w
  inside : ¬ List.replicate (p + t + 1) b <:+: w

section

variable {b : Bool} {p t n : Nat} {w : List Bool} {ws : List (List Bool)}

/-- The block is longer than its bound, so the bit that ends its first run is its own, whatever follows it. -/
theorem RunsWithin.start_le (h : RunsWithin b p t w) {rest : List Bool} (hn : List.replicate n b <+: w ++ rest) :
    n ≤ p := by
  by_contra hlt
  have hrun : List.replicate (p + 1) b <+: List.replicate n b :=
    List.prefix_replicate_iff.mpr ⟨by simp; omega, by simp⟩
  exact h.start
    (List.prefix_of_prefix_length_le (hrun.trans hn) (List.prefix_append w rest) (by simpa using h.longer))

theorem RunsWithin.stop_le (h : RunsWithin b p t w) (hn : List.replicate n b <:+ w) : n ≤ t := by
  by_contra hlt
  have hrun : List.replicate (t + 1) b <:+ List.replicate n b :=
    List.suffix_replicate_iff.mpr ⟨by simp; omega, by simp⟩
  exact h.stop (hrun.trans hn)

theorem start_le_of_flatten (hws : ∀ w ∈ ws, RunsWithin b p t w) (hn : List.replicate n b <+: ws.flatten) : n ≤ p := by
  cases ws with
  | nil =>
    obtain rfl : n = 0 := by simpa using hn
    exact Nat.zero_le p
  | cons w ws => exact (hws w List.mem_cons_self).start_le hn

/-- In a stream of such blocks a run lies in one block, or it is the end of one and the start of the rest. -/
theorem not_replicate_infix_flatten (hws : ∀ w ∈ ws, RunsWithin b p t w) :
    ¬ List.replicate (p + t + 1) b <:+: ws.flatten := by
  induction ws with
  | nil => simp
  | cons w ws ih =>
    have hw := hws w List.mem_cons_self
    have hrest : ∀ v ∈ ws, RunsWithin b p t v := fun v hv => hws v (List.mem_cons_of_mem w hv)
    intro hrun
    rcases List.infix_append_iff.mp hrun with hin | hin | ⟨l₁, l₂, heq, hstop, hstart⟩
    · exact hw.inside hin
    · exact ih hrest hin
    · obtain ⟨hlen, h₁, h₂⟩ := List.replicate_eq_append_iff.mp heq
      have hle₁ := hw.stop_le (h₁ ▸ hstop)
      have hle₂ := start_le_of_flatten hrest (h₂ ▸ hstart)
      omega

end

/-! ### The bit stream of an encoded buffer (the properties under R74) -/

/-- No code word begins or ends with two 0 bits, and none holds three in a row. -/
theorem runsWithin_zeros (n : Nibble) : RunsWithin false 1 1 (codeBits (encRom n)) := by
  constructor <;> revert n <;> decide

/-- No code word is all ones. -/
theorem runsWithin_ones (n : Nibble) : RunsWithin true 4 4 (codeBits (encRom n)) := by
  constructor <;> revert n <;> decide

/-- Reading an encoded group by bytes or by fields gives the same bits (R53, R54). -/
theorem bitStream_bytesOfQ (q : Q40) : bitStream (bytesOfQ q) = (fieldsOf q).flatMap codeBits := by
  simp [bitStream, bytesOfQ, byteBits, byteOfQ, fieldsOf, codeBits, fieldOf, List.range_succ]

/-- An encoded buffer is a stream of code words. -/
theorem bitStream_encodeBytes : ∀ bs : List Byte,
    ∃ ns : List Nibble, bitStream (encodeBytes bs) = (ns.map fun n => codeBits (encRom n)).flatten
  | [] | [_] | [_, _] | [_, _, _] => ⟨[], rfl⟩
  | b0 :: b1 :: b2 :: b3 :: bs => by
    obtain ⟨ns, hns⟩ := bitStream_encodeBytes bs
    refine ⟨nibblesOf (b0 ++ b1 ++ b2 ++ b3) ++ ns, ?_⟩
    have hgroup := bitStream_bytesOfQ (encodeUnit (b0 ++ b1 ++ b2 ++ b3))
    rw [fieldsOf_encodeUnit, List.flatMap_map] at hgroup
    rw [encodeBytes_group, List.map_append, List.flatten_append, ← hns, ← List.flatMap_def, ← hgroup]
    exact List.flatMap_append

/-- Settles O57: 1 + 1 zeros and 4 + 4 ones meet where two code words do, and neither fills a code word. -/
theorem encodedStreamHasNoLongRuns : Obligations.EncodedStreamHasNoLongRuns := by
  intro bs
  obtain ⟨ns, hns⟩ := bitStream_encodeBytes bs
  rw [hns]
  exact ⟨not_replicate_infix_flatten (List.forall_mem_map.mpr fun n _ => runsWithin_zeros n),
    not_replicate_infix_flatten (List.forall_mem_map.mpr fun n _ => runsWithin_ones n)⟩

/-! ### The tables entry by entry (R10, R11, R15, R60, R74 to R122) -/

/-- The source's list holds the code words in nibble order (R73). -/
theorem codeWords_getElem? : ∀ n : Nibble, codeWords[n.toNat]? = some (encRom n) := by decide

theorem exists_encRom_of_mem_codeWords : ∀ v ∈ codeWords, ∃ n, encRom n = v := by decide

theorem not_mem_codeWords_of_decRom {v : CodeWord} (h : decRom v = none) : v ∉ codeWords := by
  intro hv
  obtain ⟨n, rfl⟩ := exists_encRom_of_mem_codeWords v hv
  exact absurd (h.symm.trans (decRom_encRom n)) (by simp)

/-- What is left to say of an encode-table row once its entry is known (R75 to R90). -/
theorem encodeRow_of_entry {n : Nibble} {c : CodeWord} (h : encRom n = c) :
    encRom n = c ∧ codeWords[n.toNat]? = some c :=
  ⟨h, h ▸ codeWords_getElem? n⟩

/-- What is left to say of a decode-table row once its entry and the image are known (R91 to R122). -/
theorem decodeRow_of_entry {v : CodeWord} {e : Option Nibble} {image : BitVec 5}
    (h : decRom v = e ∧ decImage e = image) :
    decRom v = e ∧ decImage e = image ∧ (∀ n : Nibble, e = some n → codeWords[n.toNat]? = some v) ∧
      (e = none → v ∉ codeWords) := by
  obtain ⟨rfl, himage⟩ := h
  refine ⟨rfl, himage, fun n hn => ?_, not_mem_codeWords_of_decRom⟩
  rw [codeWords_getElem?, encRom_of_mem_decRom v n hn]

/-- Settles O7, from the entries and the order of the source's list. -/
theorem encodeTableRowsZeroToSeven : Obligations.EncodeTableRowsZeroToSeven := by
  intro r hr
  fin_cases hr <;> exact encodeRow_of_entry rfl

/-- Settles O8, from the entries and the order of the source's list. -/
theorem encodeTableRowsEightToFifteen : Obligations.EncodeTableRowsEightToFifteen := by
  intro r hr
  fin_cases hr <;> exact encodeRow_of_entry rfl

/-- Settles O9, from the entries and their images. -/
theorem decodeTableRowsZeroToTen : Obligations.DecodeTableRowsZeroToTen := by
  intro r hr
  fin_cases hr <;> exact decodeRow_of_entry ⟨rfl, rfl⟩

/-- Settles O10, from the entries and their images. -/
theorem decodeTableRowsElevenToTwentyOne : Obligations.DecodeTableRowsElevenToTwentyOne := by
  intro r hr
  fin_cases hr <;> exact decodeRow_of_entry ⟨rfl, rfl⟩

/-- Settles O11, from the entries and their images. -/
theorem decodeTableRowsTwentyTwoToThirtyOne : Obligations.DecodeTableRowsTwentyTwoToThirtyOne := by
  intro r hr
  fin_cases hr <;> exact decodeRow_of_entry ⟨rfl, rfl⟩

theorem decRom_eq_none_iff : ∀ v : CodeWord, decRom v = none ↔ v ∈ invalidWords := by decide

theorem encRom_injective : Function.Injective encRom := fun n m h =>
  Option.some.inj <| by rw [← decRom_encRom n, h, decRom_encRom m]

/-- Settles O14: the two tables are inverse to each other, so the encode table is injective. -/
theorem invalidEntriesAreTheSixteen : Obligations.InvalidEntriesAreTheSixteen :=
  ⟨fun v n => ⟨fun h => (encRom_of_mem_decRom v n h).symm, fun h => h ▸ decRom_encRom n⟩, decRom_eq_none_iff, rfl,
    by decide, fun _ _ h => encRom_injective h⟩

/-! ### The construction (R70, R73) -/

/-- Whatever the list, the second loop writes `Nib` of a place at the first code word that stands there, and it leaves
`INVALID` what is not in the list. -/
theorem builtDecFrom_eq (cs : List CodeWord) (k : Nat) (v : CodeWord) :
    builtDecFrom k cs v = if v ∈ cs then some (BitVec.ofNat 4 (k + cs.idxOf v)) else none := by
  induction cs generalizing k with
  | nil => rfl
  | cons c cs ih =>
    by_cases h : v = c
    · simp [builtDecFrom, h]
    · simp [builtDecFrom, h, ih, List.idxOf_cons_ne _ (Ne.symm h), Nat.add_assoc, Nat.add_comm 1]

theorem codeWords_nodup : codeWords.Nodup := by decide

/-- A code word stands at the place of its nibble. -/
theorem idxOf_encRom (n : Nibble) : codeWords.idxOf (encRom n) = n.toNat := by
  obtain ⟨hlt, hget⟩ := List.getElem?_eq_some_iff.mp (codeWords_getElem? n)
  rw [← hget, codeWords_nodup.idxOf_getElem]

theorem builtEnc_eq_encRom (n : Nibble) : builtEnc n = encRom n := by
  rw [builtEnc, List.getD_eq_getElem?_getD, codeWords_getElem?, Option.getD_some]

theorem builtDec_eq_decRom (v : CodeWord) : builtDec v = decRom v := by
  rw [builtDec, builtDecFrom_eq, Nat.zero_add]
  cases h : decRom v with
  | none => rw [if_neg (not_mem_codeWords_of_decRom h)]
  | some n =>
    obtain rfl := encRom_of_mem_decRom v n h
    rw [if_pos (encRom_mem_codeWords n), idxOf_encRom, BitVec.ofNat_toNat, BitVec.setWidth_eq]

/-- Settles O15: each loop of the construction puts at every index the entry of the table. -/
theorem constructionGivesTheTables : Obligations.ConstructionGivesTheTables :=
  ⟨rfl, codeWords_nodup, builtEnc_eq_encRom, builtDec_eq_decRom⟩

/-! ### The lookups (R71, R72) -/

theorem exec_encLut_of_ready {s : State} (h : s.ready) :
    exec .encLut s = .next (deliverEncData (encRom s.inp.encAddr) (beginCommand s)) :=
  accept_of_ready h fun t => .next (deliverEncData (encRom t.inp.encAddr) t)

theorem exec_decLut_of_ready {s : State} (h : s.ready) :
    exec .decLut s = .next (deliverDecEntry (decRom s.inp.decAddr) (beginCommand s)) :=
  accept_of_ready h fun t => .next (deliverDecEntry (decRom t.inp.decAddr) t)

/-- Settles O16: an accepted ENC_LUT delivers the entry on the begun state. -/
theorem encLutReadsTheEncodeTable : Obligations.EncLutReadsTheEncodeTable := fun _ h =>
  exec_encLut_of_ready h

/-- Settles O17: both kinds of entry are delivered, and an `INVALID` one leaves `dec_data` as the begun state has it. -/
theorem decLutReadsTheDecodeTable : Obligations.DecLutReadsTheDecodeTable := by
  refine fun s h => ⟨fun n hn => ?valid, fun hn => ?invalid⟩
  case valid => rw [exec_decLut_of_ready h, hn]; rfl
  case invalid => rw [exec_decLut_of_ready h, hn]; rfl

theorem exec_encRomRow (n : Nibble) : exec (encRomRow n) = lookEnc n := by
  fin_cases n <;> rfl

theorem exec_decRomRow (v : CodeWord) : exec (decRomRow v) = lookDec v := by
  fin_cases v <;> rfl

/-- Settles O12: each row is the row of its index, whose meaning is the lookup there. -/
theorem tableRowsCompleteAsLookups : Obligations.TableRowsCompleteAsLookups := by
  refine ⟨fun r hr s h => ?encode, fun r hr s h => ?decode⟩
  case encode =>
    have hrow : r.1 = encRomRow r.2 := by revert r; decide
    rw [hrow, exec_encRomRow, lookEnc_of_ready h]
    rfl
  case decode =>
    have hrow : r.1 = decRomRow r.2 := by revert r; decide
    rw [hrow, exec_decRomRow, lookDec_of_ready h]
    rfl

/-! ### CONSTRUCT (R70, R180, R182) -/

theorem applyReset_idem (s : State) : applyReset (applyReset s) = applyReset s := rfl

/-- Settles O21: the block is idle after the first reset, so the second touches nothing, OUT included. -/
theorem constructGivesTheResetState : Obligations.ConstructGivesTheResetState := fun s =>
  ⟨applyReset s, rfl, rfl, congrArg Host.Outcome.next (applyReset_idem s)⟩

end Sys2Proof.Machine
end

section
/-!
PROOFS of the family 41_encoder.md: the steps of a buffer operation and the invariant of a busy block (R134, R145), whole
buffer operations and their results (R132, R142), the round trip (R135, R146), the unit and the packer forms (R130, R131).
-/

namespace Sys2Proof.Machine

/-! ### One vocabulary for both buffer operations -/

/-- R37: the bytes of IN one group takes. -/
def BufferOp.groupIn : BufferOp → Nat
  | .encode => 4
  | .decode => 5

/-- R132, R142: the result of the operation on a byte sequence; ENCODE never fails. -/
def BufferOp.result : BufferOp → List Byte → Option (List Byte)
  | .encode, bs => some (encodeBytes bs)
  | .decode, cs => decodeBytes cs

/-- R58: the command that runs the operation. -/
def BufferOp.instr : BufferOp → Instr
  | .encode => .encode
  | .decode => .decode

/-- R19: the operation as `done` names it. -/
def BufferOp.operation : BufferOp → Operation
  | .encode => .encode
  | .decode => .decode

theorem BufferOp.groups_eq_div (o : BufferOp) (n : Nat) : o.groups n = n / o.groupIn := by
  cases o <;> rfl

/-- A group that is counted lies inside the buffer (R37). -/
theorem BufferOp.groupIn_mul_succ_le {o : BufferOp} {g n : Nat} (h : g < o.groups n) :
    o.groupIn * g + o.groupIn ≤ n := by
  rw [o.groups_eq_div] at h
  calc o.groupIn * g + o.groupIn = (g + 1) * o.groupIn := by rw [Nat.succ_mul, Nat.mul_comm]
    _ ≤ n := Nat.mul_le_of_le_div _ _ _ h

theorem BufferOp.result_nil (o : BufferOp) : o.result [] = some [] := by
  cases o <;> rfl

/-- Whole groups have a result of their own, whatever follows them. -/
theorem BufferOp.result_append {o : BufferOp} {bs : List Byte} (r : List Byte) (h : bs.length % o.groupIn = 0) :
    o.result (bs ++ r) = (o.result bs).bind fun xs => (o.result r).map (xs ++ ·) := by
  cases o
  case encode => exact congrArg some (encodeBytes_append r h)
  case decode => exact decodeBytes_append r h

theorem BufferOp.length_result {o : BufferOp} {bs ys : List Byte} (h : o.result bs = some ys) :
    ys.length = o.groupBytes * o.groups bs.length := by
  rw [Nat.mul_comm]
  cases o
  case encode =>
    obtain rfl : encodeBytes bs = ys := Option.some.inj h
    exact length_encodeBytes bs
  case decode => exact length_decodeBytes h

/-- The 4 bytes of one group as a byte sequence and as one value encode alike (R132). -/
theorem encodeBytes_one (b0 b1 b2 b3 : Byte) :
    encodeBytes [b0, b1, b2, b3] = bytesOfQ (encodeUnit (b0 ++ b1 ++ b2 ++ b3)) :=
  List.append_nil _

theorem decodeBytes_one (c0 c1 c2 c3 c4 : Byte) :
    decodeBytes [c0, c1, c2, c3, c4] = (decodeUnit (c0 ++ c1 ++ c2 ++ c3 ++ c4)).map bytesOfG := by
  rw [decodeBytes_group, decodeBytes_of_short (by simp)]
  cases decodeUnit (c0 ++ c1 ++ c2 ++ c3 ++ c4) <;> simp

/-! ### One step of a busy block (R134, R145) -/

/-- What a group leaves: its bytes stored, or the failure taken. -/
def afterGroup : Option (List Byte) → State → State
  | some ys, s => storeGroup ys s
  | none, s => takeInvalidCodeWord .decode s

/-- The 4 or 5 bytes of IN that hold group `g`. -/
def State.groupSlice (s : State) : Option (List Byte) :=
  s.inp.inMem.slice (s.op.groupIn * s.g) s.op.groupIn

theorem busyStep_of_encode {s : State} (h : s.op = .encode) : busyStep s = encodeStep s := by
  rw [busyStep, h]

theorem busyStep_of_decode {s : State} (h : s.op = .decode) : busyStep s = decodeStep s := by
  rw [busyStep, h]

theorem exists_of_length_five {α : Type} {l : List α} (h : l.length = 5) : ∃ a b c d e, l = [a, b, c, d, e] := by
  obtain ⟨a, r, rfl⟩ := List.exists_cons_of_length_eq_add_one h
  obtain ⟨b, c, d, e, rfl⟩ := List.length_eq_four.mp (Nat.succ.inj h)
  exact ⟨a, b, c, d, e, rfl⟩

/-- Reading a group to encode gives the value of its bytes. -/
theorem Memory.read4_of_slice {m : Memory} {a : Nat} {bs : List Byte} (h : m.slice a 4 = some bs) :
    ∃ x, m.read4 a = some x ∧ encodeBytes bs = bytesOfQ (encodeUnit x) := by
  obtain ⟨b0, b1, b2, b3, rfl⟩ := List.length_eq_four.mp (Memory.slice_length h)
  exact ⟨_, (Memory.read4_eq_some m a _).mpr ⟨b0, b1, b2, b3, h, rfl⟩, encodeBytes_one b0 b1 b2 b3⟩

/-- Reading a group to decode gives the value of its bytes. -/
theorem Memory.read5_of_slice {m : Memory} {a : Nat} {cs : List Byte} (h : m.slice a 5 = some cs) :
    ∃ q, m.read5 a = some q ∧ decodeBytes cs = (decodeUnit q).map bytesOfG := by
  obtain ⟨c0, c1, c2, c3, c4, rfl⟩ := exists_of_length_five (Memory.slice_length h)
  exact ⟨_, (Memory.read5_eq_some m a _).mpr ⟨c0, c1, c2, c3, c4, h, rfl⟩, decodeBytes_one c0 c1 c2 c3 c4⟩

theorem Memory.slice_of_read4 {m : Memory} {a : Nat} {x : G32} (h : m.read4 a = some x) :
    ∃ bs, m.slice a 4 = some bs := by
  obtain ⟨b0, b1, b2, b3, hslice, -⟩ := (Memory.read4_eq_some m a x).mp h
  exact ⟨_, hslice⟩

theorem Memory.slice_of_read5 {m : Memory} {a : Nat} {q : Q40} (h : m.read5 a = some q) :
    ∃ cs, m.slice a 5 = some cs := by
  obtain ⟨c0, c1, c2, c3, c4, hslice, -⟩ := (Memory.read5_eq_some m a q).mp h
  exact ⟨_, hslice⟩

/-- GROUP, GROUP_OK and GROUP_FAIL in one: the step does with group `g` what the operation's result on it says. -/
theorem busyStep_group {s : State} {cs : List Byte} (hg : s.g < s.op.groups s.nIn) (hcs : s.groupSlice = some cs) :
    busyStep s = .next (afterGroup (s.op.result cs) s) := by
  unfold State.groupSlice at hcs
  cases ho : s.op <;> rw [ho] at hg hcs
  case encode =>
    obtain ⟨x, hx, hres⟩ := Memory.read4_of_slice hcs
    rw [busyStep_of_encode ho, encodeStep_group hg hx, encodeGroup_eq_storeGroup ho, ← hres]
    rfl
  case decode =>
    obtain ⟨q, hq, hres⟩ := Memory.read5_of_slice hcs
    rw [busyStep_of_decode ho, BufferOp.result, hres]
    cases hx : decodeUnit q with
    | some x => rw [decodeStep_groupOk hg hq hx, decodeGroup_eq_storeGroup ho]; rfl
    | none => exact decodeStep_groupFail hg hq hx

theorem busyStep_finish {s : State} (hg : s.g = s.op.groups s.nIn) :
    busyStep s = .next (finishBuffer s.op.operation s) := by
  cases ho : s.op <;> rw [ho] at hg
  case encode => rw [busyStep_of_encode ho, encodeStep_finish hg]; rfl
  case decode => rw [busyStep_of_decode ho, decodeStep_finish hg]; rfl

/-- A busy block's own step does group `g`, all of whose bytes are there, or ends the operation after the last group. -/
theorem busyStep_next_group {s t : State} (h : busyStep s = .next t) :
    (s.g < s.op.groups s.nIn ∧ ∃ cs, s.groupSlice = some cs ∧ t = afterGroup (s.op.result cs) s) ∨
    (s.g = s.op.groups s.nIn ∧ t = finishBuffer s.op.operation s) := by
  have hread : (s.g < s.op.groups s.nIn ∧ ∃ cs, s.groupSlice = some cs) ∨ s.g = s.op.groups s.nIn := by
    unfold State.groupSlice
    rcases busyStep_next h with ⟨ho, h⟩ | ⟨ho, h⟩ <;> rw [ho]
    · rcases encodeStep_next h with ⟨x, hg, hx, -⟩ | ⟨hg, -⟩
      · exact .inl ⟨hg, Memory.slice_of_read4 hx⟩
      · exact .inr hg
    · rcases decodeStep_next h with ⟨q, x, hg, hq, -⟩ | ⟨q, hg, hq, -⟩ | ⟨hg, -⟩
      · exact .inl ⟨hg, Memory.slice_of_read5 hq⟩
      · exact .inl ⟨hg, Memory.slice_of_read5 hq⟩
      · exact .inr hg
  rcases hread with ⟨hg, cs, hcs⟩ | hg
  · exact .inl ⟨hg, cs, hcs, Host.Outcome.next.inj (h.symm.trans (busyStep_group hg hcs))⟩
  · exact .inr ⟨hg, Host.Outcome.next.inj (h.symm.trans (busyStep_finish hg))⟩

theorem length_result_group {o : BufferOp} {cs ys : List Byte} (hcs : cs.length = o.groupIn)
    (h : o.result cs = some ys) : ys.length = o.groupBytes := by
  rw [BufferOp.length_result h, hcs]
  cases o <;> rfl

/-! ### The invariant of a busy block (R134, R145) -/

/-- What `State.busyOk` asks of a busy block, said once for both operations. -/
structure GroupsDone (s : State) : Prop where
  constructed : s.constructed = true
  nIn : s.nIn = s.inp.inLen
  status : s.status = .ok
  done : s.done = none
  g_le : s.g ≤ s.op.groups s.nIn
  outLen : s.outLen = s.op.groupBytes * s.g
  result : ∃ bs ys, s.inp.inMem.slice 0 (s.op.groupIn * s.g) = some bs ∧ s.op.result bs = some ys ∧
    s.out.slice 0 s.outLen = some ys

theorem busyOk_iff (s : State) : s.busyOk ↔ (s.busy = true → GroupsDone s) := by
  refine imp_congr_right fun _ => ?_
  cases ho : s.op
  case encode =>
    constructor
    · rintro ⟨hc, hn, hs, hd, hg, hlen, bs, hbs, hout⟩
      refine ⟨hc, hn, hs, hd, ?_, ?_, ?_⟩ <;> rw [ho]
      exacts [hg, hlen, ⟨bs, encodeBytes bs, hbs, rfl, hout⟩]
    · rintro ⟨hc, hn, hs, hd, hg, hlen, hres⟩
      rw [ho] at hg hlen hres
      obtain ⟨bs, ys, hbs, hys, hout⟩ := hres
      obtain rfl : encodeBytes bs = ys := Option.some.inj hys
      exact ⟨hc, hn, hs, hd, hg, hlen, bs, hbs, hout⟩
  case decode =>
    constructor
    · rintro ⟨hc, hn, hs, hd, hg, hlen, hres⟩
      refine ⟨hc, hn, hs, hd, ?_, ?_, ?_⟩ <;> rw [ho]
      exacts [hg, hlen, hres]
    · rintro ⟨hc, hn, hs, hd, hg, hlen, hres⟩
      rw [ho] at hg hlen hres
      exact ⟨hc, hn, hs, hd, hg, hlen, hres⟩

theorem GroupsDone.of_start (o : BufferOp) {s : State} (h : s.ready) : GroupsDone (startBuffer o (beginCommand s)) where
  constructed := h.1
  nIn := rfl
  status := rfl
  done := rfl
  g_le := Nat.zero_le _
  outLen := rfl
  result := ⟨[], [], rfl, o.result_nil, rfl⟩

/-- The next group read from IN belongs to the result as the next group written to OUT does. -/
theorem GroupsDone.after_storeGroup {s : State} (h : GroupsDone s) (hg : s.g < s.op.groups s.nIn) {cs ys : List Byte}
    (hcs : s.groupSlice = some cs) (hys : s.op.result cs = some ys) : GroupsDone (storeGroup ys s) := by
  obtain ⟨bs, xs, hbs, hxs, hout⟩ := h.result
  have hlen := length_result_group (Memory.slice_length hcs) hys
  refine { h with g_le := hg, outLen := ?_, result := ⟨bs ++ cs, xs ++ ys, ?_, ?_, ?_⟩ }
  · show s.outLen + s.op.groupBytes = s.op.groupBytes * (s.g + 1)
    rw [h.outLen, Nat.mul_succ]
  · exact (Memory.slice_append ..).mpr ⟨bs, cs, hbs, by rwa [Nat.zero_add], rfl⟩
  · show s.op.result (bs ++ cs) = some (xs ++ ys)
    rw [BufferOp.result_append cs (by rw [Memory.slice_length hbs, Nat.mul_mod_right]), hxs, hys]
    rfl
  · show (s.out.writeBytes (s.op.groupBytes * s.g) ys).slice 0 (s.outLen + s.op.groupBytes) = some (xs ++ ys)
    rw [← h.outLen, ← hlen, ← Nat.zero_add s.outLen]
    simpa using Memory.slice_writeBytes_append hout ys

theorem busyStep_keeps_busyOk (s t : State) (hb : s.busy = true) (hi : s.busyOk) (h : busyStep s = .next t) :
    t.busyOk := by
  have hinv := (busyOk_iff s).mp hi hb
  rcases busyStep_next_group h with ⟨hg, cs, hcs, rfl⟩ | ⟨-, rfl⟩
  · cases hys : s.op.result cs with
    | some ys => exact (busyOk_iff _).mpr fun _ => hinv.after_storeGroup hg hcs hys
    | none => exact .of_idle rfl
  · exact .of_idle rfl

theorem startBuffer_busyOk (o : BufferOp) {s : State} (h : s.ready) : (startBuffer o (beginCommand s)).busyOk :=
  (busyOk_iff _).mpr fun _ => .of_start o h

theorem inputHeld_iff (old new : Inputs) :
    inputHeld old new = true ↔ new.inLen = old.inLen ∧ new.inMem = old.inMem := by
  simp [inputHeld]

/-- A presentation that holds IN and `in_len` leaves what the invariant speaks of as it was. -/
theorem present_busyOk {s : State} (h : s.busyOk) (hheld : inputHeld s.inp (nextPresentation s).1.inp = true) :
    (present s).busyOk := by
  obtain ⟨hlen, hmem⟩ := (inputHeld_iff _ _).mp hheld
  refine (busyOk_iff _).mpr fun hb => ?_
  have hinv := (busyOk_iff s).mp h hb
  exact { hinv with
    nIn := hinv.nIn.trans hlen.symm
    result := by rw [present_inp, hmem]; exact hinv.result }

/-! ### The step on a busy block and on an idle one -/

/-- NOP on a busy block is no instruction: the block goes on by itself, or the host has broken its duty (R185 b). -/
theorem step_nop_of_busy {s : State} (hi : decodeWord (nextPresentation s).1.inp.sel = some .nop) (hb : s.busy = true) :
    step s = if inputHeld s.inp (nextPresentation s).1.inp then busyStep (present s)
      else .refused .inputChangedWhileBusy := by
  simp only [step, fetch, hi, hb, if_true]
  cases inputHeld s.inp (nextPresentation s).1.inp <;> rfl

/-- A busy block goes on in two ways only: it is reset, or it takes its own step on operands that were held. -/
theorem step_next_of_busy {s t : State} (hb : s.busy = true) (h : step s = .next t) :
    t = applyReset (present s) ∨
    (inputHeld s.inp (nextPresentation s).1.inp = true ∧ busyStep (present s) = .next t) := by
  have hnot : ¬ (present s).ready := fun hr => absurd (hb.symm.trans hr.2) (by decide)
  rcases step_next h with ⟨i, hi, hexec⟩ | ⟨o, hstart⟩ | ⟨-, hheld, hstep⟩
  · rcases exec_next_ready hexec with rfl | rfl | hr
    · exact .inl (Host.Outcome.next.inj hexec).symm
    · rw [step_nop_of_busy hi hb] at h
      split_ifs at h with hheld
      exact .inr ⟨hheld, h⟩
    · exact absurd hr hnot
  · exact absurd (startOnly_next hstart).1 hnot
  · exact .inr ⟨hheld, hstep⟩

/-- On an idle block every instruction keeps the invariant: a buffer operation by its steps, the others because the block
stays idle. -/
theorem exec_keeps_busyOk_of_idle {i : Instr} {s t : State} (hb : s.busy = false) (h : exec i s = .next t) :
    t.busyOk := by
  rcases exec_next_cases h with ⟨-, rfl⟩ | ⟨-, rfl⟩ | ⟨hr, hcmd⟩
  · exact .of_idle rfl
  · exact .of_idle hb
  · rcases hcmd with ⟨c, rfl⟩ | ⟨e, rfl⟩ | ⟨-, rfl⟩ | ⟨-, x, -, rfl⟩ | ⟨-, -, rfl⟩ | ⟨-, hrun⟩ | ⟨-, hrun⟩
    · exact .of_idle hb
    · exact .of_idle hb
    · exact .of_idle hb
    · exact .of_idle hb
    · exact .of_idle rfl
    · exact runToDone_keeps busyStep_keeps_busyOk (startBuffer_busyOk _ hr) hrun
    · exact runToDone_keeps busyStep_keeps_busyOk (startBuffer_busyOk _ hr) hrun

/-- Settles O41: a busy block is reset or does its next group on operands that were held; an idle one becomes busy only by
a START. -/
theorem everyStepKeepsTheBusyBlockInvariant : Obligations.EveryStepKeepsTheBusyBlockInvariant := by
  intro s t hi h
  cases hb : s.busy with
  | true =>
    rcases step_next_of_busy hb h with rfl | ⟨hheld, h⟩
    · exact .of_idle rfl
    · exact busyStep_keeps_busyOk (present s) t hb (present_busyOk hi hheld) h
  | false =>
    rcases step_next h with ⟨i, -, h⟩ | ⟨o, h⟩ | ⟨hbusy, -, -⟩
    · exact exec_keeps_busyOk_of_idle (s := present s) hb h
    · obtain ⟨hr, rfl⟩ := startOnly_next h
      exact startBuffer_busyOk o hr
    · exact absurd (hb.symm.trans hbusy) (by decide)

/-- A buffer operation presented to be run group by group is fetched to be started (R134, R145). -/
theorem fetch_eq_start (o : BufferOp) {s : State} (hi : decodeWord (nextPresentation s).1.inp.sel = some o.instr)
    (hw : (nextPresentation s).1.stepwise = true) : fetch s = .start o (present s) := by
  cases o <;> simp [fetch, hi, hw, BufferOp.instr]

theorem step_eq_startOnly (o : BufferOp) {s : State} (hi : decodeWord (nextPresentation s).1.inp.sel = some o.instr)
    (hw : (nextPresentation s).1.stepwise = true) : step s = startOnly o (present s) := by
  rw [step, fetch_eq_start o hi hw]

theorem step_of_no_row {s : State} (hi : decodeWord (nextPresentation s).1.inp.sel = none) :
    step s = .refused (.unknownSelector (nextPresentation s).1.inp.sel) := by
  simp only [step, fetch, hi]

/-- Settles O5: the two starts, the two answers to NOP on a busy block, and the byte that is no row. -/
theorem stepWhereNoInstructionRuns : Obligations.StepWhereNoInstructionRuns := by
  refine fun s => ⟨step_eq_startOnly .encode, step_eq_startOnly .decode, fun hi hb hlen hmem => ?held,
    fun hi hb hchanged => ?changed, step_of_no_row⟩
  case held => rw [step_nop_of_busy hi hb, if_pos ((inputHeld_iff _ _).mpr ⟨hlen, hmem⟩)]
  case changed =>
    rw [step_nop_of_busy hi hb, if_neg fun hheld => ?_]
    obtain ⟨hlen, hmem⟩ := (inputHeld_iff _ _).mp hheld
    exact hchanged.elim (· hlen) (· hmem)

/-- Settles O34: an accepted command is started on the begun state. -/
theorem bufferStartLatchesItsOperands : Obligations.BufferStartLatchesItsOperands := fun o _ h =>
  accept_of_ready h fun t => .next (startBuffer o t)

/-- Settles O35: a group of four bytes encodes to the five that are stored, and past the last group ENCODE ends. -/
theorem encodeStepsOneGroup : Obligations.EncodeStepsOneGroup := by
  refine fun s _ ho => ⟨fun b0 b1 b2 b3 hg hslice => ?group, fun hg => ?finish⟩
  case group =>
    have hx := (Memory.read4_eq_some _ _ _).mpr ⟨b0, b1, b2, b3, hslice, rfl⟩
    rw [busyStep_of_encode ho, encodeStep_group hg hx]
    rfl
  case finish =>
    rw [busyStep_of_encode ho, encodeStep_finish hg]
    rfl

/-! ### A whole buffer operation and its result (R132, R142) -/

theorem exec_buffer (o : BufferOp) (s : State) :
    exec o.instr s = accept s fun t => runToDone (o.groups t.inp.inLen + 1) (startBuffer o t) := by
  cases o <;> rfl

theorem exec_buffer_of_ready (o : BufferOp) {s : State} (h : s.ready) :
    exec o.instr s = runToDone (o.groups s.inp.inLen + 1) (startBuffer o (beginCommand s)) :=
  (exec_buffer o s).trans (accept_of_ready h _)

/-- `n` groups stored, with the bytes `ys` of all of them. -/
def storeGroups (n : Nat) (ys : List Byte) (s : State) : State :=
  { s with out := s.out.writeBytes (s.op.groupBytes * s.g) ys, outLen := s.outLen + s.op.groupBytes * n, g := s.g + n }

theorem storeGroups_zero (s : State) : storeGroups 0 [] s = s := rfl

/-- The groups after the first lie in OUT directly behind it. -/
theorem storeGroups_storeGroup {s : State} {xs : List Byte} (h : xs.length = s.op.groupBytes) (n : Nat)
    (zs : List Byte) : storeGroups n zs (storeGroup xs s) = storeGroups (n + 1) (xs ++ zs) s := by
  have hout : (s.out.writeBytes (s.op.groupBytes * s.g) xs).writeBytes (s.op.groupBytes * (s.g + 1)) zs =
      s.out.writeBytes (s.op.groupBytes * s.g) (xs ++ zs) := by
    rw [Memory.writeBytes_append, h, Nat.mul_succ]
  have hlen : s.outLen + s.op.groupBytes + s.op.groupBytes * n = s.outLen + s.op.groupBytes * (n + 1) := by
    rw [Nat.mul_succ]; omega
  simp only [storeGroups, storeGroup, hout, hlen, Nat.succ_add_eq_add_succ]

/-- The last `n` groups of a running operation, none of which fails, and its end. -/
theorem runToDone_groups {n : Nat} {s : State} {bs ys : List Byte} (hb : s.busy = true)
    (hn : s.g + n = s.op.groups s.nIn)
    (hbs : s.inp.inMem.slice (s.op.groupIn * s.g) (s.op.groupIn * n) = some bs) (hys : s.op.result bs = some ys) :
    runToDone (n + 1) s = .next (finishBuffer s.op.operation (storeGroups n ys s)) := by
  induction n generalizing s bs ys with
  | zero =>
    obtain rfl : [] = bs := Option.some.inj hbs
    obtain rfl : [] = ys := Option.some.inj (s.op.result_nil.symm.trans hys)
    rw [runToDone_succ hb (busyStep_finish hn), storeGroups_zero, runToDone_zero]
  | succ n ih =>
    rw [Nat.mul_succ, Nat.add_comm (s.op.groupIn * n), Memory.slice_append] at hbs
    obtain ⟨cs, rest, hcs, hrest, rfl⟩ := hbs
    have hlen := Memory.slice_length hcs
    rw [BufferOp.result_append rest (by rw [hlen, Nat.mod_self])] at hys
    obtain ⟨xs, hxs, hys⟩ := Option.bind_eq_some_iff.mp hys
    obtain ⟨zs, hzs, rfl⟩ := Option.map_eq_some_iff.mp hys
    have hstep : busyStep s = .next (storeGroup xs s) := by rw [busyStep_group (by omega) hcs, hxs, afterGroup]
    have hleft : s.g + 1 + n = s.op.groups s.nIn := by omega
    rw [runToDone_succ hb hstep, ih (s := storeGroup xs s) hb hleft hrest hzs,
      storeGroups_storeGroup (length_result_group hlen hxs)]
    rfl

/-- The block after a buffer operation with the result `ys` (R132, R142). -/
def afterBuffer (o : BufferOp) (ys : List Byte) (s : State) : State :=
  { s with op := o, nIn := s.inp.inLen, g := o.groups s.inp.inLen, outLen := o.groupBytes * o.groups s.inp.inLen,
           status := .ok, done := some o.operation, unit := freePorts s.freeIndex, out := s.out.writeBytes 0 ys,
           freeIndex := s.freeIndex + 1 }

/-- The bytes of IN that the operation reads. -/
def State.wholeGroups (s : State) (o : BufferOp) : Option (List Byte) :=
  s.inp.inMem.slice 0 (o.groupIn * o.groups s.inp.inLen)

/-- A buffer operation whose groups are all in IN and have a result writes it to OUT from address 0. -/
theorem exec_buffer_of_result (o : BufferOp) {s : State} (h : s.ready) {bs ys : List Byte}
    (hbs : s.wholeGroups o = some bs) (hys : o.result bs = some ys) :
    exec o.instr s = .next (afterBuffer o ys s) := by
  rw [exec_buffer_of_ready o h,
    runToDone_groups (s := startBuffer o (beginCommand s)) (n := o.groups s.inp.inLen) rfl (Nat.zero_add _) hbs hys]
  simp [afterBuffer, finishBuffer, storeGroups, startBuffer, beginCommand, h.2]

/-- Settles O26: ENCODE is the buffer operation that has a result on every byte sequence. -/
theorem encodeWritesTheEncodedBuffer : Obligations.EncodeWritesTheEncodedBuffer := fun _ _ h hbs =>
  exec_buffer_of_result .encode h hbs rfl

theorem BufferOp.groups_mul (o : BufferOp) (n : Nat) : o.groups (o.groupIn * n) = n := by
  rw [o.groups_eq_div]
  cases o <;> exact Nat.mul_div_cancel_left n (by decide)

/-- `out_len` is the length of the result (R41). -/
theorem afterBuffer_outLen {o : BufferOp} {s : State} {bs ys : List Byte} (hbs : s.wholeGroups o = some bs)
    (hys : o.result bs = some ys) : (afterBuffer o ys s).outLen = ys.length := by
  rw [BufferOp.length_result hys, Memory.slice_length hbs, o.groups_mul]
  rfl

theorem slice_afterBuffer_out (o : BufferOp) (ys : List Byte) (s : State) :
    (afterBuffer o ys s).out.slice 0 ys.length = some ys :=
  Memory.slice_writeBytes_self s.out 0 ys

/-- What the host reads after a buffer operation that did not fail: `out_len`, status 0 and the bytes of the result. -/
theorem hostView_of_exec_buffer (o : BufferOp) {s t : State} {bs ys : List Byte} (hbs : s.wholeGroups o = some bs)
    (hys : o.result bs = some ys) (h : exec o.instr s = .next t) :
    hostView t = { HostView.blank with status := some .ok, outLen := some ys.length, out := fun a => ys[a]? } := by
  obtain ⟨hr, -⟩ := accept_next ((exec_buffer o s).symm.trans h)
  obtain rfl : afterBuffer o ys s = t := Host.Outcome.next.inj ((exec_buffer_of_result o hr hbs hys).symm.trans h)
  have hlen := afterBuffer_outLen hbs hys
  have hout (a : Nat) : (if (afterBuffer o ys s).status = .ok ∧ a < ys.length then (afterBuffer o ys s).out.read a
      else none) = ys[a]? := by
    split_ifs with ha
    · simpa using Memory.read_of_slice (slice_afterBuffer_out o ys s) ha.2
    · exact (List.getElem?_eq_none (Nat.le_of_not_lt fun hlt => ha ⟨rfl, hlt⟩)).symm
  rw [hostView_of_bufferDone (by cases o; exacts [.inl rfl, .inr rfl]), hlen]
  simp only [hout]
  rfl

/-- Settles O60: both operations show the host their result in one way. -/
theorem hostReadsTheBufferResult : Obligations.HostReadsTheBufferResult := by
  refine ⟨fun s t bs hbs h => ?encode, fun s t cs ys hcs hys h => ?decode⟩
  case encode =>
    obtain ⟨status, outLen, out, encData, decValid, -, euOut, duOk, -⟩ :=
      (hostView_eq_iff t _).mp (hostView_of_exec_buffer .encode hbs rfl h)
    exact ⟨out, outLen, status, encData, decValid, euOut, duOk⟩
  case decode =>
    obtain ⟨status, outLen, out, encData, decValid, -, euOut, duOk, -⟩ :=
      (hostView_eq_iff t _).mp (hostView_of_exec_buffer .decode hcs hys h)
    exact ⟨out, outLen, status, encData, decValid, euOut, duOk⟩

/-! ### The same operation one group a step (R134, R145) -/

theorem busyStep_keeps_ports {s t : State} (h : busyStep s = .next t) : t.inp = s.inp ∧ t.host = s.host := by
  rcases busyStep_next_cases h with ⟨-, bs, -, rfl⟩ | rfl | ⟨-, o, rfl⟩ <;> exact ⟨rfl, rfl⟩

/-- The host has no move to make and the ports are idle already. -/
def State.quiet (s : State) : Prop := s.host = [] ∧ s.inp.sel = idleSelector

theorem present_of_noMove {s : State} (h : s.host = []) :
    present s = { s with inp := { s.inp with sel := idleSelector }, host := [] } := by
  rw [present, nextPresentation_nil h, idlePresentation]

theorem present_quiet {s : State} (h : s.host = []) : (present s).quiet := by
  rw [present_of_noMove h]
  exact ⟨rfl, rfl⟩

theorem State.quiet.present_eq {s : State} (h : s.quiet) : present s = s := by
  obtain ⟨hhost, hsel⟩ := h
  rw [present_of_noMove hhost, ← hsel, ← hhost]

/-- With no host move the port shows NOP (R170, R181): a busy block takes its own step, an idle one only drives the ports. -/
theorem step_of_noMove {s : State} (h : s.host = []) :
    step s = if s.busy then busyStep (present s) else .next (present s) := by
  have hi : decodeWord (nextPresentation s).1.inp.sel = some .nop := by rw [nextPresentation_nil h]; exact decodeWord_idle
  cases hb : s.busy with
  | true =>
    rw [step_nop_of_busy hi hb, if_pos ((inputHeld_iff _ _).mpr (by rw [nextPresentation_nil h]; exact ⟨rfl, rfl⟩))]
    rfl
  | false => exact stepRunsTheDecodedInstruction s .nop hi (.inl hb) (.inr (by decide))

section

variable {M : Host.Core} {s t : M.State}

theorem coreRun_succ_of_next (h : M.step s = .next t) (n : Nat) : M.run (n + 1) s = M.run n t := by
  simp only [Host.Core.run, h]

theorem coreRun_succ_of_fault {r : M.Fault} (h : M.step s = .fault r) (n : Nat) : M.run (n + 1) s = .fault r := by
  simp only [Host.Core.run, h]

theorem coreRun_succ_congr (h : M.step s = M.step t) (n : Nat) : M.run (n + 1) s = M.run (n + 1) t := by
  simp only [Host.Core.run, h]

end

/-- `n` steps of the machine, as an answer of the model. -/
def runSteps (n : Nat) (s : State) : Answer := Host.Core.run Sys2Proof.core n s

theorem runSteps_succ_of_next {s t : State} (h : step s = .next t) (n : Nat) : runSteps (n + 1) s = runSteps n t :=
  coreRun_succ_of_next (M := Sys2Proof.core) h n

theorem runSteps_succ_of_fault {s : State} {r : Fault} (h : step s = .fault r) (n : Nat) :
    runSteps (n + 1) s = .fault r :=
  coreRun_succ_of_fault (M := Sys2Proof.core) h n

theorem runSteps_succ_congr {s t : State} (h : step s = step t) (n : Nat) : runSteps (n + 1) s = runSteps (n + 1) t :=
  coreRun_succ_congr (M := Sys2Proof.core) h n

theorem runToDone_succ_of_fault {s : State} {r : Fault} (hb : s.busy = true) (hr : busyStep s = .fault r) (n : Nat) :
    runToDone (n + 1) s = .fault r := by
  simp [runToDone, hb, hr]

theorem State.quiet.runSteps_eq {s : State} (h : s.quiet) (n : Nat) : runSteps n s = runToDone n s := by
  induction n generalizing s with
  | zero => rfl
  | succ n ih =>
    have hstep := step_of_noMove h.1
    rw [h.present_eq] at hstep
    cases hb : s.busy with
    | false =>
      rw [hb] at hstep
      rw [runSteps_succ_of_next hstep, ih h, runToDone_of_idle hb, runToDone_of_idle hb]
    | true =>
      rw [hb] at hstep
      cases hu : busyStep s with
      | next u =>
        obtain ⟨hinp, hhost⟩ := busyStep_keeps_ports hu
        rw [runSteps_succ_of_next (hstep.trans hu), ih ⟨hhost.trans h.1, hinp ▸ h.2⟩, runToDone_succ hb hu]
      | fault r => rw [runSteps_succ_of_fault (hstep.trans hu), runToDone_succ_of_fault hb hu]
      | refused r => exact absurd hu (busyStep_ne_refused s r)

/-- Left alone, the machine runs as the block does by its own steps; the first step drives the ports. -/
theorem runSteps_succ_of_noMove {s : State} (h : s.host = []) (n : Nat) :
    runSteps (n + 1) s = runToDone (n + 1) (present s) := by
  have hq := present_quiet h
  have hstep : step s = step (present s) := by
    rw [step_of_noMove h, step_of_noMove hq.1, hq.present_eq, present_busy]
  rw [← hq.runSteps_eq, runSteps_succ_congr hstep]

/-- One step to start, one for each group and one to finish: what the whole operation does in one event (D1). -/
theorem runSteps_stepwise_eq_exec (o : BufferOp) {s : State} {p : Presentation} (hr : s.ready) (hhost : s.host = [p])
    (hw : p.stepwise = true) (hi : decodeWord p.inp.sel = some o.instr) :
    runSteps (o.groups p.inp.inLen + 2) s =
      exec o.instr { s with inp := { p.inp with sel := idleSelector }, host := [] } := by
  have hnext : nextPresentation s = (p, []) := nextPresentation_head hhost (.inl hr.2)
  have hpres : present s = { s with inp := p.inp, host := [] } := by rw [present, hnext]
  have hstart : step s = .next (startBuffer o (beginCommand (present s))) := by
    rw [step_eq_startOnly o (by rw [hnext]; exact hi) (by rw [hnext]; exact hw)]
    exact bufferStartLatchesItsOperands o (present s) hr
  rw [exec_buffer_of_ready o (s := { s with inp := { p.inp with sel := idleSelector }, host := [] }) hr,
    runSteps_succ_of_next hstart, hpres, runSteps_succ_of_noMove rfl, present_of_noMove rfl]
  rfl

/-- Settles O37: ENCODE is one of the two buffer operations. -/
theorem stepwiseEncodeIsWholeEncode : Obligations.StepwiseEncodeIsWholeEncode := fun _ _ hr hhost hw hsel =>
  runSteps_stepwise_eq_exec .encode hr hhost hw (by rw [hsel]; exact decodeWord_encodeWord .encode)

/-! ### Every started operation ends (R190) -/

/-- Every group of the running operation that is left is in IN. -/
def State.groupsThere (s : State) : Prop :=
  ∀ g, g < s.op.groups s.nIn → (s.inp.inMem.slice (s.op.groupIn * g) s.op.groupIn).isSome

theorem groupsThere_of_inputComplete {s : State} (hn : s.nIn = s.inp.inLen) (h : s.inputComplete) : s.groupsThere := by
  refine fun g hg => (Memory.slice_isSome_iff ..).mpr fun i hi => h _ ?_
  have := BufferOp.groupIn_mul_succ_le hg
  omega

/-- With `n` groups left, `n + 1` steps end the operation: by a failure on the way, or after the last group. -/
theorem runToDone_ends {n : Nat} {s : State} (hb : s.busy = true) (hn : s.g + n = s.op.groups s.nIn)
    (hin : s.groupsThere) :
    ∃ t, runToDone (n + 1) s = .next t ∧ t.busy = false ∧ t.done.isSome = true := by
  induction n generalizing s with
  | zero => exact ⟨_, by rw [runToDone_succ hb (busyStep_finish hn), runToDone_zero], rfl, rfl⟩
  | succ n ih =>
    have hg : s.g < s.op.groups s.nIn := by omega
    obtain ⟨cs, hcs⟩ := Option.isSome_iff_exists.mp (hin s.g hg)
    rw [runToDone_succ hb (busyStep_group hg hcs)]
    cases s.op.result cs with
    | some ys =>
      have hleft : s.g + 1 + n = s.op.groups s.nIn := by omega
      exact ih (s := storeGroup ys s) hb hleft hin
    | none => exact ⟨_, runToDone_of_idle rfl _, rfl, rfl⟩

/-- Settles O39: left alone the block takes its own steps, and their number is the groups left and one. -/
theorem everyStartedOperationEnds : Obligations.EveryStartedOperationEnds := by
  intro s hi hb hin hhost
  have hinv := (busyOk_iff s).mp hi hb
  have hn : (present s).g + (s.op.groups s.nIn - s.g) = (present s).op.groups (present s).nIn :=
    Nat.add_sub_cancel' hinv.g_le
  have hthere : (present s).groupsThere := by
    rw [present_of_noMove hhost]
    exact groupsThere_of_inputComplete hinv.nIn hin
  obtain ⟨t, hrun, hidle, hdone⟩ := runToDone_ends (s := present s) hb hn hthere
  refine ⟨s.op.groups s.nIn - s.g + 1, t, ?_, ?_, hidle, hdone⟩
  · cases s.op <;> exact Nat.le_refl _
  · exact (runSteps_succ_of_noMove hhost _).trans hrun

/-! ### The round trip (R135, R146) -/

/-- Settles O50: whole groups have a result of their own, whatever follows them. -/
theorem wholeGroupsConcatenate : Obligations.WholeGroupsConcatenate := by
  refine ⟨fun a b ha => encodeBytes_append b ha, fun a b ha => ⟨fun x y hx hy => ?succeeds, fun hfail => ?fails⟩⟩
  case succeeds => rw [decodeBytes_append b ha, hx, hy]; rfl
  case fails =>
    rw [decodeBytes_append b ha]
    rcases hfail with hfail | hfail <;> simp [hfail]

/-- The nibbles of a group, packed again, are the group (R52). -/
theorem packNibbles_nibbleOf (x : G32) :
    packNibbles (nibbleOf x 0) (nibbleOf x 1) (nibbleOf x 2) (nibbleOf x 3) (nibbleOf x 4) (nibbleOf x 5)
      (nibbleOf x 6) (nibbleOf x 7) = x := by
  simp (disch := decide) only [packNibbles, pairNibbles, nibbleOf, Nat.reduceMul, Nat.reduceSub,
    BitVec.extractLsb'_append_extractLsb'_eq_extractLsb']
  exact BitVec.extractLsb'_eq_self

theorem bytesOfG_append (b0 b1 b2 b3 : Byte) : bytesOfG (b0 ++ b1 ++ b2 ++ b3) = [b0, b1, b2, b3] := by
  simp (disch := decide) only [bytesOfG, byteOfG, Nat.reduceMul, Nat.reduceSub, BitVec.extractLsb'_append_eq_of_le,
    BitVec.extractLsb'_append_eq_of_add_le, BitVec.extractLsb'_eq_self]

theorem append_byteOfQ (q : Q40) : byteOfQ q 0 ++ byteOfQ q 1 ++ byteOfQ q 2 ++ byteOfQ q 3 ++ byteOfQ q 4 = q := by
  simp (disch := decide) only [byteOfQ, Nat.reduceMul, Nat.reduceSub,
    BitVec.extractLsb'_append_extractLsb'_eq_extractLsb']
  exact BitVec.extractLsb'_eq_self

/-- The nibbles of a packed group are those of its code words, if all of these are valid (R140). -/
theorem decodeUnit_packFields {c0 c1 c2 c3 c4 c5 c6 c7 : CodeWord} {n0 n1 n2 n3 n4 n5 n6 n7 : Nibble}
    (h0 : decRom c0 = some n0) (h1 : decRom c1 = some n1) (h2 : decRom c2 = some n2) (h3 : decRom c3 = some n3)
    (h4 : decRom c4 = some n4) (h5 : decRom c5 = some n5) (h6 : decRom c6 = some n6) (h7 : decRom c7 = some n7) :
    decodeUnit (packFields c0 c1 c2 c3 c4 c5 c6 c7) = some (packNibbles n0 n1 n2 n3 n4 n5 n6 n7) := by
  have hfields := fieldsOf_packFields c0 c1 c2 c3 c4 c5 c6 c7
  obtain ⟨f0, f1, f2, f3, f4, f5, f6, f7⟩ := by simpa [fieldsOf, List.range_succ] using hfields
  simp only [decodeUnit, f0, f1, f2, f3, f4, f5, f6, f7, h0, h1, h2, h3, h4, h5, h6, h7]
  rfl

/-- DECODE_UNIT undoes ENCODE_UNIT, since the tables are inverse to each other (R12). -/
theorem decodeUnit_encodeUnit (x : G32) : decodeUnit (encodeUnit x) = some x :=
  (decodeUnit_packFields (decRom_encRom _) (decRom_encRom _) (decRom_encRom _) (decRom_encRom _) (decRom_encRom _)
    (decRom_encRom _) (decRom_encRom _) (decRom_encRom _)).trans (congrArg some (packNibbles_nibbleOf x))

theorem decodeBytes_bytesOfQ_append (q : Q40) (cs : List Byte) :
    decodeBytes (bytesOfQ q ++ cs) = (decodeUnit q).bind fun x => (decodeBytes cs).map (bytesOfG x ++ ·) := by
  rw [← congrArg decodeUnit (append_byteOfQ q)]
  exact decodeBytes_group _ _ _ _ _ cs

theorem decodeBytes_encodeBytes : ∀ bs : List Byte,
    decodeBytes (encodeBytes bs) = some (bs.take (4 * (bs.length / 4)))
  | [] | [_] | [_, _] | [_, _, _] => by simp [encodeBytes_of_short, decodeBytes_of_short]
  | b0 :: b1 :: b2 :: b3 :: bs => by
    have hlen : 4 * ((b0 :: b1 :: b2 :: b3 :: bs).length / 4) = 4 * (bs.length / 4) + 4 := by
      simp only [List.length_cons]; omega
    rw [encodeBytes_group, decodeBytes_bytesOfQ_append, decodeUnit_encodeUnit, decodeBytes_encodeBytes bs, hlen]
    simp [bytesOfG_append]

/-- Settles O46: a length that is a multiple of 4 leaves nothing out. -/
theorem decodeOfEncodeGivesBackTheBuffer : Obligations.DecodeOfEncodeGivesBackTheBuffer := by
  refine fun bs => ⟨decodeBytes_encodeBytes bs, fun h => ?_⟩
  rw [decodeBytes_encodeBytes, Nat.mul_div_cancel' (Nat.dvd_of_mod_eq_zero h), List.take_length]

/-- The host takes OUT as the next IN. -/
def State.outAsIn (s : State) : State := { s with inp := { s.inp with inLen := s.outLen, inMem := s.out } }

/-- What ENCODE has written, taken as IN, is whole groups to DECODE. -/
theorem wholeGroups_outAsIn {s : State} {bs : List Byte} (hbs : s.wholeGroups .encode = some bs) :
    (afterBuffer .encode (encodeBytes bs) s).outAsIn.wholeGroups .decode = some (encodeBytes bs) := by
  have hlen : 5 * (s.inp.inLen / 4) = (encodeBytes bs).length := afterBuffer_outLen (o := .encode) hbs rfl
  show (afterBuffer .encode (encodeBytes bs) s).out.slice 0 (5 * (5 * (s.inp.inLen / 4) / 5)) = some (encodeBytes bs)
  rw [Nat.mul_div_cancel_left _ (by decide), hlen]
  exact slice_afterBuffer_out .encode (encodeBytes bs) s

/-- Settles O58: OUT and `out_len` after ENCODE are an IN of whole groups, and these decode to the bytes before. -/
theorem encodeThenDecodeOnTheBlock : Obligations.EncodeThenDecodeOnTheBlock := by
  intro s bs hr hbs
  have hwhole : bs.length % 4 = 0 := by rw [Memory.slice_length hbs, Nat.mul_mod_right]
  have hin := wholeGroups_outAsIn hbs
  have hdec : BufferOp.decode.result (encodeBytes bs) = some bs := (decodeOfEncodeGivesBackTheBuffer bs).2 hwhole
  have hlen := afterBuffer_outLen hin hdec
  have hready : (afterBuffer .encode (encodeBytes bs) s).outAsIn.ready := hr
  exact ⟨_, _, exec_buffer_of_result .encode hr hbs rfl, exec_buffer_of_result .decode hready hin hdec, rfl, hlen,
    hlen ▸ slice_afterBuffer_out .decode bs _, rfl⟩

/-! ### ENCODE_UNIT and the packer forms (R130, R131) -/

/-- Settles O18: the begun state with the unit's value on `eu_out`, the nibbles by their place in `eu_in`. -/
theorem encodeUnitPacksEightCodeWords : Obligations.EncodeUnitPacksEightCodeWords := fun _ h =>
  accept_of_ready h fun t => .next (deliverEuOut (encodeUnit t.inp.euIn) t)

/-- Code words as one number, the first one most significant, behind what `acc` holds. -/
def packValue (acc : Nat) (cs : List CodeWord) : Nat := cs.foldl (fun v c => v * 2 ^ 5 + c.toNat) acc

theorem packValue_nil (acc : Nat) : packValue acc [] = acc := rfl

theorem packValue_cons (acc : Nat) (c : CodeWord) (cs : List CodeWord) :
    packValue acc (c :: cs) = packValue (acc * 2 ^ 5 + c.toNat) cs := rfl

/-- Behind `n` code words stands what was held before them. -/
theorem packValue_div (acc : Nat) (cs : List CodeWord) : packValue acc cs / 2 ^ (5 * cs.length) = acc := by
  induction cs generalizing acc with
  | nil => exact Nat.div_one acc
  | cons c cs ih =>
    rw [packValue_cons, List.length_cons, Nat.mul_succ, Nat.pow_add, ← Nat.div_div_eq_div_mul, ih]
    omega

/-- Dropping high bits before packing and after it is the same. -/
theorem packValue_mod (acc m : Nat) (cs : List CodeWord) :
    packValue (acc % 2 ^ m) cs = packValue acc cs % 2 ^ (m + 5 * cs.length) := by
  induction cs generalizing acc m with
  | nil => rfl
  | cons c cs ih =>
    have hword : acc % 2 ^ m * 2 ^ 5 + c.toNat = (acc * 2 ^ 5 + c.toNat) % 2 ^ (m + 5) := by
      have hlow : (acc * 2 ^ 5 + c.toNat) % 2 ^ 5 = c.toNat := by omega
      have hhigh : (acc * 2 ^ 5 + c.toNat) / 2 ^ 5 = acc := by omega
      rw [Nat.add_comm m, Nat.pow_add, Nat.mod_mul, hlow, hhigh]
      omega
    rw [packValue_cons, packValue_cons, hword, ih, List.length_cons, Nat.mul_succ, Nat.add_right_comm, Nat.add_assoc]

/-- `k` bytes of a number, most significant first, above its lowest `r` bits. -/
def bytesAbove (v r : Nat) : Nat → List Byte
  | 0 => []
  | k + 1 => BitVec.ofNat 8 (v / 2 ^ (r + 8 * k)) :: bytesAbove v r k

/-- No bit above the topmost byte matters. -/
theorem bytesAbove_mod (v r k : Nat) {n : Nat} (h : r + 8 * k ≤ n) : bytesAbove (v % 2 ^ n) r k = bytesAbove v r k := by
  induction k with
  | zero => rfl
  | succ k ih =>
    have hbyte : BitVec.ofNat 8 (v % 2 ^ n / 2 ^ (r + 8 * k)) = BitVec.ofNat 8 (v / 2 ^ (r + 8 * k)) := by
      apply BitVec.eq_of_toNat_eq
      have hn : 2 ^ n = 2 ^ (r + 8 * k) * 2 ^ (n - (r + 8 * k)) := by rw [← Nat.pow_add]; congr 1; omega
      rw [BitVec.toNat_ofNat, BitVec.toNat_ofNat, hn, Nat.mod_mul_right_div_self,
        Nat.mod_mod_of_dvd _ (Nat.pow_dvd_pow 2 (by omega))]
    rw [bytesAbove, bytesAbove, hbyte, ih (by omega)]

section

variable (acc : Nat) (c : CodeWord) (cs : List CodeWord)

theorem packEmit_cons_hold {nbits : Nat} (h : nbits < 3) :
    packEmit acc nbits (c :: cs) = packEmit (acc * 2 ^ 5 + c.toNat) (nbits + 5) cs := by
  rw [packEmit, if_neg (by omega)]

theorem packEmit_cons_emit (m : Nat) :
    packEmit acc (m + 3) (c :: cs) =
      BitVec.ofNat 8 ((acc * 2 ^ 5 + c.toNat) / 2 ^ m) :: packEmit ((acc * 2 ^ 5 + c.toNat) % 2 ^ m) m cs := by
  rw [packEmit, if_pos (by omega), show m + 3 + 5 - 8 = m from Nat.add_sub_cancel m 8]

theorem packHeld_cons_hold {nbits : Nat} (h : nbits < 3) :
    packHeld acc nbits (c :: cs) = packHeld (acc * 2 ^ 5 + c.toNat) (nbits + 5) cs := by
  rw [packHeld, if_neg (by omega)]

theorem packHeld_cons_emit (m : Nat) :
    packHeld acc (m + 3) (c :: cs) = packHeld ((acc * 2 ^ 5 + c.toNat) % 2 ^ m) m cs := by
  rw [packHeld, if_pos (by omega), show m + 3 + 5 - 8 = m from Nat.add_sub_cancel m 8]

/-- A code word that completes a byte moves 8 of the bits out. -/
theorem bits_cons_emit (m : Nat) : m + 3 + 5 * (c :: cs).length = m + 5 * cs.length + 8 := by
  rw [List.length_cons]; omega

theorem bits_cons_hold (nbits : Nat) : nbits + 5 * (c :: cs).length = nbits + 5 + 5 * cs.length := by
  rw [List.length_cons]; omega

end

/-- The byte-emitting packer gives out every whole byte there is, from the top (R131 b). -/
theorem packEmit_eq (acc : Nat) {nbits : Nat} (h : nbits < 8) (cs : List CodeWord) :
    packEmit acc nbits cs =
      bytesAbove (packValue acc cs) ((nbits + 5 * cs.length) % 8) ((nbits + 5 * cs.length) / 8) := by
  induction cs generalizing acc nbits with
  | nil => rw [packEmit, List.length_nil, Nat.div_eq_of_lt (by omega), bytesAbove]
  | cons c cs ih =>
    rcases Nat.lt_or_ge nbits 3 with h3 | h3
    · rw [packEmit_cons_hold acc c cs h3, ih _ (by omega), packValue_cons, bits_cons_hold]
    · obtain ⟨m, rfl⟩ := Nat.exists_eq_add_of_le' h3
      have htop : packValue (acc * 2 ^ 5 + c.toNat) cs / 2 ^ (m + 5 * cs.length) = (acc * 2 ^ 5 + c.toNat) / 2 ^ m := by
        rw [Nat.add_comm m, Nat.pow_add, ← Nat.div_div_eq_div_mul, packValue_div]
      have htotal := Nat.mod_add_div (m + 5 * cs.length) 8
      rw [packEmit_cons_emit, ih _ (by omega), packValue_cons, bits_cons_emit, Nat.add_mod_right,
        Nat.add_div_right _ (by decide), bytesAbove, htotal, htop, packValue_mod,
        bytesAbove_mod _ _ _ (Nat.le_of_eq htotal)]

/-- The byte-emitting packer goes on holding the bits that fill no byte (R131 b). -/
theorem packHeld_eq {acc nbits : Nat} (hacc : acc < 2 ^ nbits) (h : nbits < 8) (cs : List CodeWord) :
    packHeld acc nbits cs =
      (packValue acc cs % 2 ^ ((nbits + 5 * cs.length) % 8), (nbits + 5 * cs.length) % 8) := by
  induction cs generalizing acc nbits with
  | nil =>
    have hbits : (nbits + 5 * ([] : List CodeWord).length) % 8 = nbits := Nat.mod_eq_of_lt h
    rw [packHeld, packValue_nil, hbits, Nat.mod_eq_of_lt hacc]
  | cons c cs ih =>
    rcases Nat.lt_or_ge nbits 3 with h3 | h3
    · have hnext : acc * 2 ^ 5 + c.toNat < 2 ^ (nbits + 5) := by rw [Nat.pow_add]; omega
      rw [packHeld_cons_hold acc c cs h3, ih hnext (by omega), packValue_cons, bits_cons_hold]
    · obtain ⟨m, rfl⟩ := Nat.exists_eq_add_of_le' h3
      rw [packHeld_cons_emit, ih (Nat.mod_lt _ (Nat.two_pow_pos m)) (by omega), packValue_cons, bits_cons_emit,
        Nat.add_mod_right, packValue_mod, Nat.mod_mod_of_dvd _ (Nat.pow_dvd_pow 2 (Nat.mod_le _ 8))]

theorem bytesOfQ_eq_bytesAbove (q : Q40) : bytesOfQ q = bytesAbove q.toNat 0 5 := by
  simp [bytesOfQ, bytesAbove, byteOfQ, BitVec.extractLsb', Nat.shiftRight_eq_div_pow]

theorem toNat_append {m n : Nat} (x : BitVec m) (y : BitVec n) : (x ++ y).toNat = x.toNat * 2 ^ n + y.toNat := by
  rw [BitVec.toNat_append, ← Nat.shiftLeft_add_eq_or_of_lt y.isLt, Nat.shiftLeft_eq]

theorem packFields_toNat (c0 c1 c2 c3 c4 c5 c6 c7 : CodeWord) :
    (packFields c0 c1 c2 c3 c4 c5 c6 c7).toNat = packValue 0 [c0, c1, c2, c3, c4, c5, c6, c7] := by
  simp only [packFields, toNat_append, packValue_cons, packValue_nil, Nat.zero_mul, Nat.zero_add]

/-- A code word shifted in is a code word packed behind (R131 a). -/
theorem ofNat_shiftLeft_or (v : Nat) (c : CodeWord) :
    (BitVec.ofNat 40 v <<< 5) ||| c.setWidth 40 = BitVec.ofNat 40 (v * 2 ^ 5 + c.toNat) := by
  have hshift : BitVec.ofNat 40 v <<< 5 = BitVec.ofNat 40 (v <<< 5) := by
    apply BitVec.eq_of_toNat_eq
    simp [Nat.shiftLeft_eq]
  rw [← Nat.shiftLeft_eq, Nat.shiftLeft_add_eq_or_of_lt c.isLt, BitVec.ofNat_or, BitVec.ofNat_toNat, hshift]

theorem packShift_eq (cs : List CodeWord) : packShift cs = BitVec.ofNat 40 (packValue 0 cs) :=
  List.foldl_hom (BitVec.ofNat 40) ofNat_shiftLeft_or

/-- Settles O55: all forms read off the number that the 8 code words are, and 40 bits are 5 bytes with nothing left. -/
theorem packerFormsAgree : Obligations.PackerFormsAgree := by
  intro c0 c1 c2 c3 c4 c5 c6 c7
  have hvalue := packFields_toNat c0 c1 c2 c3 c4 c5 c6 c7
  have hbits : 0 + 5 * [c0, c1, c2, c3, c4, c5, c6, c7].length = 40 := rfl
  refine ⟨?shift, ?emit, ?held⟩
  case shift => rw [packShift_eq, ← hvalue, BitVec.ofNat_toNat, BitVec.setWidth_eq]
  case emit =>
    rw [packEmit_eq 0 (by decide), bytesOfQ_eq_bytesAbove, hvalue, hbits]
  case held =>
    rw [packHeld_eq (by decide) (by decide), hbits, show 40 % 8 = 0 from rfl, Nat.pow_zero, Nat.mod_one]

end Sys2Proof.Machine
end

section
/-!
PROOFS of the family 42_decoder.md: the unit and the unpacker forms (R140, R141), what makes a decode fail and what
encode makes of its result (R146), and DECODE whole and one group a step, its failure included (R142, R143, R145).
-/

namespace Sys2Proof.Machine

/-! ### One group: decoding inverts encoding (R140, R146) -/

theorem packFields_fieldOf (q : Q40) :
    packFields (fieldOf q 0) (fieldOf q 1) (fieldOf q 2) (fieldOf q 3) (fieldOf q 4) (fieldOf q 5) (fieldOf q 6)
      (fieldOf q 7) = q := by
  simp (disch := decide) only [packFields, fieldOf, Nat.reduceMul, Nat.reduceSub,
    BitVec.extractLsb'_append_extractLsb'_eq_extractLsb']
  exact BitVec.extractLsb'_eq_self

theorem hiNibble_pairNibbles (hi lo : Nibble) : hiNibble (pairNibbles hi lo) = hi :=
  BitVec.extractLsb'_append_eq_left

theorem loNibble_pairNibbles (hi lo : Nibble) : loNibble (pairNibbles hi lo) = lo :=
  BitVec.extractLsb'_append_eq_right

/-- Packing 8 nibbles and cutting the group into its nibbles gives them back (R52). -/
theorem nibblesOf_packNibbles (n0 n1 n2 n3 n4 n5 n6 n7 : Nibble) :
    nibblesOf (packNibbles n0 n1 n2 n3 n4 n5 n6 n7) = [n0, n1, n2, n3, n4, n5, n6, n7] := by
  simp only [packNibbles, nibblesOf_append, hiNibble_pairNibbles, loNibble_pairNibbles]

/-- Paired into bytes or side by side, 8 nibbles are the same 32 bits. -/
theorem packNibbles_eq_append (n0 n1 n2 n3 n4 n5 n6 n7 : Nibble) :
    packNibbles n0 n1 n2 n3 n4 n5 n6 n7 = n0 ++ n1 ++ n2 ++ n3 ++ n4 ++ n5 ++ n6 ++ n7 := by
  apply BitVec.eq_of_toNat_eq
  simp only [packNibbles, pairNibbles, toNat_append]
  omega

theorem encodeUnit_packNibbles (n0 n1 n2 n3 n4 n5 n6 n7 : Nibble) :
    encodeUnit (packNibbles n0 n1 n2 n3 n4 n5 n6 n7) =
      packFields (encRom n0) (encRom n1) (encRom n2) (encRom n3) (encRom n4) (encRom n5) (encRom n6) (encRom n7) := by
  have hnibbles := nibblesOf_packNibbles n0 n1 n2 n3 n4 n5 n6 n7
  obtain ⟨e0, e1, e2, e3, e4, e5, e6, e7⟩ := by simpa [nibblesOf, List.range_succ] using hnibbles
  simp only [encodeUnit, e0, e1, e2, e3, e4, e5, e6, e7]

section

variable {q : Q40} {x : G32}

theorem decodeUnit_of_fields {n0 n1 n2 n3 n4 n5 n6 n7 : Nibble} (h0 : decRom (fieldOf q 0) = some n0)
    (h1 : decRom (fieldOf q 1) = some n1) (h2 : decRom (fieldOf q 2) = some n2) (h3 : decRom (fieldOf q 3) = some n3)
    (h4 : decRom (fieldOf q 4) = some n4) (h5 : decRom (fieldOf q 5) = some n5) (h6 : decRom (fieldOf q 6) = some n6)
    (h7 : decRom (fieldOf q 7) = some n7) : decodeUnit q = some (packNibbles n0 n1 n2 n3 n4 n5 n6 n7) := by
  rw [← decodeUnit_packFields h0 h1 h2 h3 h4 h5 h6 h7, packFields_fieldOf]

/-- A group that decodes is the encoding of what it decodes to: each field is the code word of its nibble (R12). -/
theorem encodeUnit_of_decodeUnit (h : decodeUnit q = some x) : encodeUnit x = q := by
  simp only [decodeUnit, Option.bind_eq_bind, Option.bind_eq_some_iff, Option.pure_def, Option.some.injEq] at h
  obtain ⟨n0, h0, n1, h1, n2, h2, n3, h3, n4, h4, n5, h5, n6, h6, n7, h7, rfl⟩ := h
  rw [encodeUnit_packNibbles, encRom_of_mem_decRom _ _ h0, encRom_of_mem_decRom _ _ h1, encRom_of_mem_decRom _ _ h2,
    encRom_of_mem_decRom _ _ h3, encRom_of_mem_decRom _ _ h4, encRom_of_mem_decRom _ _ h5,
    encRom_of_mem_decRom _ _ h6, encRom_of_mem_decRom _ _ h7, packFields_fieldOf]

theorem decRom_fieldOf_encodeUnit (x : G32) {j : Nat} (hj : j < 8) :
    decRom (fieldOf (encodeUnit x) j) = some (nibbleOf x j) := by
  have hfield := getElem?_fieldsOf (encodeUnit x) hj
  rw [fieldsOf_encodeUnit, nibblesOf, List.map_map, List.getElem?_map, List.getElem?_range hj] at hfield
  rw [← Option.some.inj hfield]
  exact decRom_encRom _

/-- R140, R160: one invalid field fails the group, and nothing else does. -/
theorem decodeUnit_eq_none_iff : decodeUnit q = none ↔ ∃ j, j < 8 ∧ decRom (fieldOf q j) = none := by
  constructor
  · intro h
    by_contra hall
    have hvalid (j : Nat) (hj : j < 8) : ∃ n, decRom (fieldOf q j) = some n :=
      Option.ne_none_iff_exists'.mp fun hj' => hall ⟨j, hj, hj'⟩
    obtain ⟨n0, h0⟩ := hvalid 0 (by decide)
    obtain ⟨n1, h1⟩ := hvalid 1 (by decide)
    obtain ⟨n2, h2⟩ := hvalid 2 (by decide)
    obtain ⟨n3, h3⟩ := hvalid 3 (by decide)
    obtain ⟨n4, h4⟩ := hvalid 4 (by decide)
    obtain ⟨n5, h5⟩ := hvalid 5 (by decide)
    obtain ⟨n6, h6⟩ := hvalid 6 (by decide)
    obtain ⟨n7, h7⟩ := hvalid 7 (by decide)
    exact absurd (h.symm.trans (decodeUnit_of_fields h0 h1 h2 h3 h4 h5 h6 h7)) (by simp)
  · rintro ⟨j, hj, hnone⟩
    refine Option.eq_none_iff_forall_ne_some.mpr fun x hx => ?_
    rw [← encodeUnit_of_decodeUnit hx, decRom_fieldOf_encodeUnit x hj] at hnone
    exact absurd hnone (by simp)

end

/-- Settles O51: the only group that decodes to `x` is the one that encodes it. -/
theorem unitsAreInverse : Obligations.UnitsAreInverse :=
  ⟨decodeUnit_encodeUnit, fun _ _ => encodeUnit_of_decodeUnit, fun x y h =>
    Option.some.inj <| by rw [← decodeUnit_encodeUnit x, h, decodeUnit_encodeUnit y]⟩

/-! ### DECODE_UNIT on the block (R140, R160) -/

theorem exec_decodeUnit_of_some {s : State} {x : G32} (h : s.ready) (hx : decodeUnit s.inp.duIn = some x) :
    exec .decodeUnit s = .next (deliverDuOut x (beginCommand s)) := by
  show execDecodeUnit s = _
  rw [execDecodeUnit, accept_of_ready h, beginCommand_inp, hx]

theorem exec_decodeUnit_of_none {s : State} (h : s.ready) (hx : decodeUnit s.inp.duIn = none) :
    exec .decodeUnit s = .next (takeInvalidCodeWord .decodeUnit (beginCommand s)) := by
  show execDecodeUnit s = _
  rw [execDecodeUnit, accept_of_ready h, beginCommand_inp, hx]

/-- Settles O19: the value of the 8 fields is delivered, or the failure is taken. -/
theorem decodeUnitGivesFourBytesOrFails : Obligations.DecodeUnitGivesFourBytesOrFails := by
  refine fun s h => ⟨fun n0 n1 n2 n3 n4 n5 n6 n7 h0 h1 h2 h3 h4 h5 h6 h7 => ?valid, fun hinvalid => ?invalid⟩
  case valid =>
    rw [exec_decodeUnit_of_some h (decodeUnit_of_fields h0 h1 h2 h3 h4 h5 h6 h7), packNibbles_eq_append]
    rfl
  case invalid =>
    rw [exec_decodeUnit_of_none h (decodeUnit_eq_none_iff.mpr hinvalid)]
    simp [takeInvalidCodeWord, beginCommand, h.2]

/-! ### The unpacker forms (R141) -/

/-- The top 5 bits after `j` shifts are field `j`. -/
theorem extractLsb'_shiftLeft_fieldOf (q : Q40) {j : Nat} (hj : j < 8) :
    (q <<< (5 * j)).extractLsb' 35 5 = fieldOf q j := by
  ext i hi
  have hlt : 35 + i < 40 := by omega
  have hge : ¬ 35 + i < 5 * j := by omega
  have hplace : 35 + i - 5 * j = 35 - 5 * j + i := by omega
  have hbound : 35 - 5 * j + i < 40 := by omega
  simp [fieldOf, hlt, hge, hplace, BitVec.getLsbD_eq_getElem hbound]

/-- The shift-out unpacker goes on from field `j` (R141 a). -/
theorem unpackShift_shiftLeft (q : Q40) {j n : Nat} (h : j + n ≤ 8) :
    unpackShift (q <<< (5 * j)) n = (List.range' j n).map (fieldOf q) := by
  induction n generalizing j with
  | zero => rfl
  | succ n ih =>
    rw [unpackShift, extractLsb'_shiftLeft_fieldOf q (by omega), ← BitVec.shiftLeft_add, ← Nat.mul_succ,
      ih (by omega), List.range'_succ, List.map_cons]

/-- `k` code words of a number, most significant first, above its lowest `r` bits. -/
def wordsAbove (v r : Nat) : Nat → List CodeWord
  | 0 => []
  | k + 1 => BitVec.ofNat 5 (v / 2 ^ (r + 5 * k)) :: wordsAbove v r k

theorem wordsAbove_add (v r k l : Nat) :
    wordsAbove v r (l + k) = wordsAbove v (r + 5 * k) l ++ wordsAbove v r k := by
  induction l with
  | zero => rw [Nat.zero_add]; rfl
  | succ l ih =>
    have hplace : r + 5 * (l + k) = r + 5 * k + 5 * l := by omega
    rw [Nat.add_right_comm, wordsAbove, wordsAbove, ih, hplace, List.cons_append]

theorem wordsAbove_div (v r m k : Nat) : wordsAbove (v / 2 ^ m) r k = wordsAbove v (r + m) k := by
  induction k with
  | zero => rfl
  | succ k ih =>
    have hplace : m + (r + 5 * k) = r + m + 5 * k := by omega
    rw [wordsAbove, wordsAbove, ih, Nat.div_div_eq_div_mul, ← Nat.pow_add, hplace]

/-- While it holds 5 bits the accumulator gives out the 5 oldest, and no bit is lost (R141 b). -/
theorem drainWords_eq (v : Nat) {r k fuel : Nat} (hr : r < 5) (hk : k ≤ fuel) :
    drainWords fuel (v % 2 ^ (r + 5 * k)) (r + 5 * k) = (wordsAbove v r k, v % 2 ^ r, r) := by
  induction k generalizing fuel with
  | zero =>
    cases fuel with
    | zero => rfl
    | succ fuel => rw [drainWords, if_neg (by omega)]; rfl
  | succ k ih =>
    obtain ⟨fuel, rfl⟩ := Nat.exists_eq_add_of_le' hk
    have hleft : r + 5 * (k + 1) - 5 = r + 5 * k := rfl
    have hhead : BitVec.ofNat 5 (v % 2 ^ (r + 5 * (k + 1)) / 2 ^ (r + 5 * k)) =
        BitVec.ofNat 5 (v / 2 ^ (r + 5 * k)) := by
      apply BitVec.eq_of_toNat_eq
      rw [Nat.mul_succ, ← Nat.add_assoc, Nat.pow_add _ (r + 5 * k), Nat.mod_mul_right_div_self]
      simp
    have hrest : v % 2 ^ (r + 5 * (k + 1)) % 2 ^ (r + 5 * k) = v % 2 ^ (r + 5 * k) :=
      Nat.mod_mod_of_dvd _ (Nat.pow_dvd_pow 2 (by omega))
    rw [← Nat.add_assoc, drainWords, if_pos (by omega), hleft, hhead, hrest, ih (Nat.le_add_left k fuel)]
    rfl

/-- Fed with the bytes of a number behind the `m` bits above them that it already holds, the unpacker gives out every
whole code word there is, from the top, and holds the rest (R141 b). -/
theorem unpackFeed_bytesAbove (v : Nat) {m r k n : Nat} (hm : m < 5) (hr : r < 5) (h : r + 5 * k = m + 8 * n) :
    unpackFeed (v / 2 ^ (8 * n) % 2 ^ m) m (bytesAbove v 0 n) = (wordsAbove v r k, v % 2 ^ r, r) := by
  induction n generalizing m k with
  | zero =>
    obtain ⟨rfl, rfl⟩ : r = m ∧ k = 0 := by omega
    simp [bytesAbove, unpackFeed, wordsAbove]
  | succ n ih =>
    obtain ⟨a, l, ha, hsum⟩ : ∃ a l, a < 5 ∧ m + 8 = a + 5 * l :=
      ⟨(m + 8) % 5, (m + 8) / 5, Nat.mod_lt _ (by decide), (Nat.mod_add_div _ _).symm⟩
    obtain ⟨j, rfl⟩ : ∃ j, k = l + j := Nat.exists_eq_add_of_le (by omega)
    have hbyte : v / 2 ^ (8 * (n + 1)) % 2 ^ m * 2 ^ 8 + (BitVec.ofNat 8 (v / 2 ^ (0 + 8 * n))).toNat =
        v / 2 ^ (8 * n) % 2 ^ (a + 5 * l) := by
      rw [← hsum, Nat.add_comm m, Nat.pow_add 2 8, Nat.mod_mul, Nat.div_div_eq_div_mul, ← Nat.pow_add, Nat.zero_add,
        BitVec.toNat_ofNat, Nat.mul_succ, Nat.mul_comm, Nat.add_comm]
    have hplace : a + 8 * n = r + 5 * j := by omega
    rw [bytesAbove, unpackFeed, hbyte, hsum, drainWords_eq _ ha (by omega)]
    simp only [ih ha hplace.symm, wordsAbove_div, hplace, wordsAbove_add]

theorem fieldsOf_eq_wordsAbove (q : Q40) : fieldsOf q = wordsAbove q.toNat 0 8 := by
  simp [fieldsOf, List.range_succ, wordsAbove, fieldOf, BitVec.extractLsb', Nat.shiftRight_eq_div_pow]

/-- Settles O56: both forms read the fields off the group from the top, and 40 bits are 8 code words and no more. -/
theorem unpackerFormsAgree : Obligations.UnpackerFormsAgree := by
  refine fun q => ⟨?shift, ?feed⟩
  case shift =>
    have hshift := unpackShift_shiftLeft q (j := 0) (n := 8) (by decide)
    rwa [Nat.mul_zero, BitVec.shiftLeft_zero] at hshift
  case feed =>
    have hfeed := unpackFeed_bytesAbove q.toNat (m := 0) (r := 0) (k := 8) (n := 5) (by decide) (by decide) rfl
    rwa [← bytesOfQ_eq_bytesAbove, ← fieldsOf_eq_wordsAbove, Nat.pow_zero, Nat.mod_one, Nat.mod_one] at hfeed

/-! ### Byte sequences: what encode makes of a decoded one, and what makes a decode fail (R146) -/

theorem bytesOfQ_append (c0 c1 c2 c3 c4 : Byte) : bytesOfQ (c0 ++ c1 ++ c2 ++ c3 ++ c4) = [c0, c1, c2, c3, c4] := by
  simp (disch := decide) only [bytesOfQ, byteOfQ, Nat.reduceMul, Nat.reduceSub, BitVec.extractLsb'_append_eq_of_le,
    BitVec.extractLsb'_append_eq_of_add_le, BitVec.extractLsb'_eq_self]

theorem append_byteOfG (x : G32) : byteOfG x 0 ++ byteOfG x 1 ++ byteOfG x 2 ++ byteOfG x 3 = x := by
  simp (disch := decide) only [byteOfG, Nat.reduceMul, Nat.reduceSub,
    BitVec.extractLsb'_append_extractLsb'_eq_extractLsb']
  exact BitVec.extractLsb'_eq_self

theorem encodeBytes_bytesOfG_append (x : G32) (bs : List Byte) :
    encodeBytes (bytesOfG x ++ bs) = bytesOfQ (encodeUnit x) ++ encodeBytes bs := by
  rw [← congrArg encodeUnit (append_byteOfG x)]
  exact encodeBytes_group _ _ _ _ bs

theorem encodeBytes_of_decodeBytes : ∀ {cs ys : List Byte}, decodeBytes cs = some ys →
    encodeBytes ys = cs.take (5 * (cs.length / 5))
  | [], ys, h | [_], ys, h | [_, _], ys, h | [_, _, _], ys, h | [_, _, _, _], ys, h => by
    obtain rfl : [] = ys := Option.some.inj h
    simp [encodeBytes_of_short]
  | c0 :: c1 :: c2 :: c3 :: c4 :: cs, ys, h => by
    rw [decodeBytes_group] at h
    obtain ⟨x, hx, h⟩ := Option.bind_eq_some_iff.mp h
    obtain ⟨zs, hzs, rfl⟩ := Option.map_eq_some_iff.mp h
    have hlen : 5 * ((c0 :: c1 :: c2 :: c3 :: c4 :: cs).length / 5) = 5 * (cs.length / 5) + 5 := by
      simp only [List.length_cons]; omega
    rw [encodeBytes_bytesOfG_append, encodeUnit_of_decodeUnit hx, bytesOfQ_append, encodeBytes_of_decodeBytes hzs, hlen]
    rfl

/-- Settles O47, group by group. -/
theorem encodeOfDecodeGivesBackTheBuffer : Obligations.EncodeOfDecodeGivesBackTheBuffer := fun _ _ =>
  encodeBytes_of_decodeBytes

theorem decodeBytes_ne_none_of_short {r : List Byte} (h : r.length < 5) : decodeBytes r ≠ none := by
  simp [decodeBytes_of_short h]

/-- Up to 5 bytes fail only as a complete group that does (R39). -/
theorem decodeBytes_eq_none_of_le {r : List Byte} (h : r.length ≤ 5) :
    decodeBytes r = none ↔
      ∃ c0 c1 c2 c3 c4, r = [c0, c1, c2, c3, c4] ∧ decodeUnit (c0 ++ c1 ++ c2 ++ c3 ++ c4) = none := by
  constructor
  · intro hnone
    have hlen : r.length = 5 := Nat.le_antisymm h (Nat.le_of_not_lt fun hlt => decodeBytes_ne_none_of_short hlt hnone)
    obtain ⟨c0, c1, c2, c3, c4, rfl⟩ := exists_of_length_five hlen
    rw [decodeBytes_one, Option.map_eq_none_iff] at hnone
    exact ⟨c0, c1, c2, c3, c4, rfl, hnone⟩
  · rintro ⟨c0, c1, c2, c3, c4, rfl, hnone⟩
    rw [decodeBytes_one, hnone, Option.map_none]

/-- A sequence fails exactly when one of its groups, taken alone, does (R143). -/
theorem decodeBytes_eq_none_iff : ∀ cs : List Byte,
    decodeBytes cs = none ↔ ∃ g, decodeBytes ((cs.drop (5 * g)).take 5) = none
  | [] | [_] | [_, _] | [_, _, _] | [_, _, _, _] =>
    iff_of_false (decodeBytes_ne_none_of_short (by simp)) fun ⟨g, hg⟩ =>
      decodeBytes_ne_none_of_short (r := (List.drop (5 * g) _).take 5)
        (Nat.lt_of_le_of_lt ((List.take_sublist ..).trans (List.drop_sublist ..)).length_le (by simp)) hg
  | c0 :: c1 :: c2 :: c3 :: c4 :: cs => by
    rw [← Nat.or_exists_add_one]
    show _ ↔ decodeBytes [c0, c1, c2, c3, c4] = none ∨ ∃ g, decodeBytes ((cs.drop (5 * g)).take 5) = none
    rw [← decodeBytes_eq_none_iff cs, decodeBytes_group, decodeBytes_one]
    cases decodeUnit (c0 ++ c1 ++ c2 ++ c3 ++ c4) <;> simp

/-- Settles O48: a failing sequence has a failing group, and that has an invalid field. -/
theorem decodeFailsExactlyOnAnInvalidField : Obligations.DecodeFailsExactlyOnAnInvalidField := by
  intro cs
  have hgroup (g : Nat) := decodeBytes_eq_none_of_le (r := (cs.drop (5 * g)).take 5) (List.length_take_le 5 _)
  rw [decodeBytes_eq_none_iff]
  constructor
  · rintro ⟨g, hg⟩
    obtain ⟨c0, c1, c2, c3, c4, hcs, hunit⟩ := (hgroup g).mp hg
    obtain ⟨j, hj, hfield⟩ := decodeUnit_eq_none_iff.mp hunit
    exact ⟨g, c0, c1, c2, c3, c4, j, hcs, hj, hfield⟩
  · rintro ⟨g, c0, c1, c2, c3, c4, j, hcs, hj, hfield⟩
    exact ⟨g, (hgroup g).mpr ⟨c0, c1, c2, c3, c4, hcs, decodeUnit_eq_none_iff.mpr ⟨j, hj, hfield⟩⟩⟩

/-! ### DECODE one group a step (R145) -/

/-- Settles O36: a group of five bytes decodes to the four that are stored or fails the operation, and past the last
group DECODE ends. -/
theorem decodeStepsOneGroup : Obligations.DecodeStepsOneGroup := by
  refine fun s _ ho => ⟨fun c0 c1 c2 c3 c4 hg hslice => ?group, fun hg => ?finish⟩
  case group =>
    have hq := (Memory.read5_eq_some _ _ _).mpr ⟨c0, c1, c2, c3, c4, hslice, rfl⟩
    refine ⟨fun x hx => ?ok, fun hx => ?fail⟩
    case ok => rw [busyStep_of_decode ho, decodeStep_groupOk hg hq hx]; rfl
    case fail => rw [busyStep_of_decode ho, decodeStep_groupFail hg hq hx]; rfl
  case finish =>
    rw [busyStep_of_decode ho, decodeStep_finish hg]
    rfl

/-- Settles O38: DECODE is one of the two buffer operations. -/
theorem stepwiseDecodeIsWholeDecode : Obligations.StepwiseDecodeIsWholeDecode := fun _ _ hr hhost hw hsel =>
  runSteps_stepwise_eq_exec .decode hr hhost hw (by rw [hsel]; exact decodeWord_encodeWord .decode)

/-! ### DECODE as one event (R142, R143) -/

/-- Settles O27: DECODE is a buffer operation, here one whose groups have a result. -/
theorem decodeWritesTheDecodedBuffer : Obligations.DecodeWritesTheDecodedBuffer := fun _ _ _ h hcs hys =>
  exec_buffer_of_result .decode h hcs hys

/-- A failure leaves nothing of the groups before it (R143, R161). -/
theorem takeInvalidCodeWord_storeGroup (bs : List Byte) (s : State) :
    takeInvalidCodeWord .decode (storeGroup bs s) = takeInvalidCodeWord .decode s := rfl

/-- The last `n` groups of a running operation, one of which fails: the failure is taken, whichever group it is. -/
theorem runToDone_fails {n : Nat} {s : State} {bs : List Byte} (hb : s.busy = true)
    (hn : s.g + n = s.op.groups s.nIn)
    (hbs : s.inp.inMem.slice (s.op.groupIn * s.g) (s.op.groupIn * n) = some bs) (hfail : s.op.result bs = none) :
    runToDone (n + 1) s = .next (takeInvalidCodeWord .decode s) := by
  induction n generalizing s bs with
  | zero =>
    obtain rfl : [] = bs := Option.some.inj hbs
    exact absurd (s.op.result_nil.symm.trans hfail) (by simp)
  | succ n ih =>
    rw [Nat.mul_succ, Nat.add_comm (s.op.groupIn * n), Memory.slice_append] at hbs
    obtain ⟨cs, rest, hcs, hrest, rfl⟩ := hbs
    have hlen := Memory.slice_length hcs
    rw [BufferOp.result_append rest (by rw [hlen, Nat.mod_self])] at hfail
    rw [runToDone_succ hb (busyStep_group (by omega) hcs)]
    cases hxs : s.op.result cs with
    | none => exact runToDone_of_idle rfl _
    | some xs =>
      rw [hxs, Option.bind_some, Option.map_eq_none_iff] at hfail
      have hleft : s.g + 1 + n = s.op.groups s.nIn := by omega
      rw [afterGroup, ih (s := storeGroup xs s) hb hleft hrest hfail, takeInvalidCodeWord_storeGroup]

/-- A DECODE whose groups are all in IN and do not all decode ends as if its first group had failed. -/
theorem exec_decode_of_fails {s : State} (h : s.ready) {cs : List Byte} (hcs : s.wholeGroups .decode = some cs)
    (hfail : decodeBytes cs = none) :
    exec .decode s = .next (takeInvalidCodeWord .decode (startBuffer .decode (beginCommand s))) :=
  (exec_buffer_of_ready .decode h).trans <|
    runToDone_fails (s := startBuffer .decode (beginCommand s)) rfl (Nat.zero_add _) hcs hfail

/-- Settles O28: a failing sequence has a failing group, which lies inside the buffer, and DECODE takes the failure. -/
theorem decodeFailsAsAWhole : Obligations.DecodeFailsAsAWhole := by
  intro s cs h hcs hfail
  constructor
  · obtain ⟨g, hg⟩ := (decodeBytes_eq_none_iff cs).mp hfail
    refine ⟨g, Nat.lt_of_not_le fun hle => ?_, hg⟩
    rw [List.drop_eq_nil_of_le (by rw [Memory.slice_length hcs]; omega)] at hg
    exact decodeBytes_ne_none_of_short (by simp) hg
  · rw [exec_decode_of_fails h hcs hfail]
    simp [takeInvalidCodeWord, startBuffer, beginCommand, h.2]

theorem hostView_takeInvalidCodeWord_decode (s : State) :
    hostView (takeInvalidCodeWord .decode s) =
      { HostView.blank with status := some .invalidCodeWord, outLen := some 0 } := by
  rw [hostView_of_bufferDone (.inr rfl)]
  rfl

/-- Status 1 comes from taking the failure only. -/
def FailureTaken (s : State) : Prop := s.status = .invalidCodeWord → ∃ u, s = takeInvalidCodeWord .decode u

theorem startBuffer_failureTaken (o : BufferOp) (s : State) : FailureTaken (startBuffer o s) :=
  fun hs => absurd hs (by simp)

/-- A busy block has taken none yet, since taking it ends the operation. -/
theorem busyStep_keeps_failureTaken (s t : State) (hb : s.busy = true) (hi : FailureTaken s)
    (h : busyStep s = .next t) : FailureTaken t := by
  have hok : s.status ≠ .invalidCodeWord := fun hs => by
    obtain ⟨u, rfl⟩ := hi hs
    exact absurd hb (by simp)
  rcases busyStep_next_cases h with ⟨-, bs, -, rfl⟩ | rfl | ⟨-, o, rfl⟩
  · exact fun hs => absurd hs hok
  · exact fun _ => ⟨s, rfl⟩
  · exact fun hs => absurd hs hok

/-- Settles O30: such a state is one that a failure was taken in, and the run kept the ports. -/
theorem failedDecodeShowsNoBytes : Obligations.FailedDecodeShowsNoBytes := by
  intro s t h hs
  have hrun := exec_decode_next h
  have hinp : t.inp = s.inp := (bufferRun_of_runToDone hrun).inp
  obtain ⟨u, rfl⟩ := runToDone_keeps busyStep_keeps_failureTaken (startBuffer_failureTaken _ _) hrun hs
  obtain ⟨status, outLen, out, -⟩ := (hostView_eq_iff _ _).mp (hostView_takeInvalidCodeWord_decode u)
  exact ⟨status, outLen, out, fun _ => rfl, rfl, hinp⟩

end Sys2Proof.Machine
end

section
/-!
PROOFS of the family 60_exceptions.md: NOP and the idle block (R170, R181).
-/

namespace Sys2Proof.Machine

/-- Settles O20: without a host move an idle block only drives its ports, with the idle command and the operands held. -/
theorem nopLeavesEverything : Obligations.NopLeavesEverything := by
  refine ⟨fun _ => rfl, fun s hidle hhost => ?idleBlock⟩
  case idleBlock =>
    calc step s
      _ = .next (present s) := by rw [step_of_noMove hhost, hidle]; rfl
      _ = .next { s with inp := { s.inp with sel := 0 } } := by rw [present_of_noMove hhost, ← hhost]; rfl

end Sys2Proof.Machine
end

section
/-!
PROOFS of the family 70_reset_and_hazards.md: commands to a block that cannot take one (R183, R185 a), reset while busy
(R182), and the host that keeps its duties (R185, R186).
-/

namespace Sys2Proof.Machine

/-! ### A command to a block that cannot take one (R183, R185 a) -/

/-- Settles O24: each of these instructions is a command, and what accepts it looks at the block first. -/
theorem commandsNeedAReadyBlock : Obligations.CommandsNeedAReadyBlock := by
  intro i s hconstruct hnop hreserved
  obtain ⟨k, hk⟩ := exec_eq_accept hconstruct hnop hreserved
  exact ⟨fun hc => (hk s).trans (accept_of_neverReset hc k), fun hc hb => (hk s).trans (accept_of_busy hc hb k)⟩

/-! ### Reset (R180, R182) -/

/-- `rst = 1` on the command port selects reset, whatever `cmd` is (R180). -/
theorem decodeWord_rst (cmd : BitVec 3) : decodeWord (0b00001#5 ++ cmd) = some .construct := by
  obtain ⟨-, -, -, -, -, -, -, -, hrst⟩ := commandWordsDecode
  exact hrst cmd

/-- A presented reset is taken in every state, busy or not. -/
theorem step_of_construct {s : State} (hi : decodeWord (nextPresentation s).1.inp.sel = some .construct) :
    step s = .next (applyReset (present s)) :=
  stepRunsTheDecodedInstruction s .construct hi (.inr (by decide)) (.inr (by decide))

theorem hostView_applyReset (s : State) : hostView (applyReset s) = .blank :=
  hostView_of_done_none rfl

/-- Settles O25: the move falls on the busy block at once and is a reset, which empties OUT because the block is busy. -/
theorem resetWhileBusyAbandonsTheOperation : Obligations.ResetWhileBusyAbandonsTheOperation := by
  intro s p rest c hb hhost honce hsel
  have hnext : nextPresentation s = (p, rest) := nextPresentation_head hhost (.inr honce)
  have hi : decodeWord (nextPresentation s).1.inp.sel = some .construct := by
    rw [hnext, hsel]
    exact decodeWord_rst c
  have hinp : (applyReset (present s)).inp = p.inp := by simp [hnext]
  have hrest : (applyReset (present s)).host = rest := by simp [hnext]
  have hout (a : Nat) : (applyReset (present s)).out.read a = none := by simp [hb]
  obtain ⟨status, outLen, out, -⟩ := (hostView_eq_iff _ _).mp (hostView_applyReset (present s))
  exact ⟨_, step_of_construct hi, rfl, rfl, rfl, rfl, rfl, rfl, rfl, rfl, hinp, hrest, hout, status, outLen, out⟩

/-! ### The host that keeps its duties (R185, R186) -/

/-- A busy block that meets its invariant takes its next step when the bytes of its groups are there: no group is past the
last. -/
theorem GroupsDone.busyStep_goesOn {s : State} (h : GroupsDone s) (hin : s.groupsThere) : ∃ t, busyStep s = .next t := by
  rcases Nat.lt_or_eq_of_le h.g_le with hg | hg
  · obtain ⟨cs, hcs⟩ := Option.isSome_iff_exists.mp (hin s.g hg)
    exact ⟨_, busyStep_group hg hcs⟩
  · exact ⟨_, busyStep_finish hg⟩

/-- A buffer operation on a complete IN runs to its `done`. -/
theorem exec_buffer_goesOn (o : BufferOp) {s : State} (h : s.ready) (hin : s.inputComplete) :
    ∃ t, exec o.instr s = .next t := by
  have hthere : (startBuffer o (beginCommand s)).groupsThere := groupsThere_of_inputComplete rfl hin
  obtain ⟨t, hrun, -, -⟩ := runToDone_ends (n := o.groups s.inp.inLen) rfl (Nat.zero_add _) hthere
  exact ⟨t, (exec_buffer_of_ready o h).trans hrun⟩

theorem exec_decodeUnit_goesOn {s : State} (h : s.ready) : ∃ t, exec .decodeUnit s = .next t := by
  cases hx : decodeUnit s.inp.duIn with
  | some x => exact ⟨_, exec_decodeUnit_of_some h hx⟩
  | none => exact ⟨_, exec_decodeUnit_of_none h hx⟩

/-- The converse of `exec_next_ready`: an operation of the block that finds the block as it needs it, and IN complete if it
is a buffer operation, answers a next state. -/
theorem exec_goesOn {i : Instr} {s : State} (hwf : i.wellFormed = true) (hready : i = .construct ∨ i = .nop ∨ s.ready)
    (hin : i = .encode ∨ i = .decode → s.inputComplete) : ∃ t, exec i s = .next t := by
  rcases hready with rfl | rfl | h
  · exact ⟨_, rfl⟩
  · exact ⟨_, rfl⟩
  rcases exec_row_cases i with hcmd | ⟨n, hrow⟩ | ⟨v, hrow⟩
  · cases i
    case construct | nop => exact ⟨_, rfl⟩
    case encode => exact exec_buffer_goesOn .encode h (hin (.inl rfl))
    case decode => exact exec_buffer_goesOn .decode h (hin (.inr rfl))
    case encodeUnit => exact ⟨_, encodeUnitPacksEightCodeWords s h⟩
    case decodeUnit => exact exec_decodeUnit_goesOn h
    case encLut => exact ⟨_, exec_encLut_of_ready h⟩
    case decLut => exact ⟨_, exec_decLut_of_ready h⟩
    case reserved => exact absurd hwf (by decide)
    all_goals exact absurd hcmd (by decide)
  · exact ⟨_, by rw [hrow, lookEnc_of_ready h]⟩
  · exact ⟨_, by rw [hrow, lookDec_of_ready h]⟩

/-- What a step does with a row of the table on an idle block: run it, or start it if it is a buffer operation. -/
theorem step_of_idle {s : State} {i : Instr} (hi : decodeWord (nextPresentation s).1.inp.sel = some i)
    (hb : s.busy = false) :
    step s = exec i (present s) ∨ ∃ o : BufferOp, i = o.instr ∧ step s = startOnly o (present s) := by
  by_cases hstart : (nextPresentation s).1.stepwise = true ∧ ∃ o : BufferOp, i = o.instr
  · obtain ⟨hw, o, rfl⟩ := hstart
    exact .inr ⟨o, rfl, step_eq_startOnly o hi hw⟩
  · refine .inl (stepRunsTheDecodedInstruction s i hi (.inl hb) ?_)
    cases hw : (nextPresentation s).1.stepwise with
    | false => exact .inl rfl
    | true => exact .inr ⟨fun he => hstart ⟨hw, .encode, he⟩, fun hd => hstart ⟨hw, .decode, hd⟩⟩

theorem step_goesOn_of_busy {s : State} (hb : s.busy = true) (hok : s.busyOk) (hin : (present s).inputComplete)
    (hi : decodeWord (nextPresentation s).1.inp.sel = some .nop)
    (hheld : inputHeld s.inp (nextPresentation s).1.inp = true) : ∃ t, step s = .next t := by
  have hinv : GroupsDone (present s) := (busyOk_iff _).mp (present_busyOk hok hheld) hb
  rw [step_nop_of_busy hi hb, if_pos hheld]
  exact hinv.busyStep_goesOn (groupsThere_of_inputComplete hinv.nIn hin)

/-- Settles O44: a busy block is reset or goes on with the operands it has; an idle one has been reset, or is given nothing
that needs a reset. -/
theorem dutifulHostIsNeverStopped : Obligations.DutifulHostIsNeverStopped := by
  rintro s hok ⟨i, hi, hwf, hin, hreset, hbusy⟩
  cases hb : s.busy with
  | true =>
    rcases hbusy hb with rfl | ⟨rfl, hheld⟩
    · exact ⟨_, step_of_construct hi⟩
    · exact step_goesOn_of_busy hb hok (hin (.inr (.inr hb))) hi hheld
  | false =>
    have hready : i = .construct ∨ i = .nop ∨ (present s).ready := by
      cases hc : s.constructed with
      | true => exact .inr (.inr ⟨hc, hb⟩)
      | false => exact (hreset hc).imp_right .inl
    rcases step_of_idle hi hb with hstep | ⟨o, rfl, hstep⟩ <;> rw [hstep]
    · exact exec_goesOn hwf hready fun hbuf => hin (hbuf.imp_right .inl)
    · have hr : (present s).ready :=
        (hready.resolve_left (by cases o <;> decide)).resolve_left (by cases o <;> decide)
      exact ⟨_, bufferStartLatchesItsOperands o _ hr⟩

end Sys2Proof.Machine
end
